-- ==== Sys2Proof/Word.lean ====
section
/-! DEFINITION. The word types of schnorr_edu CORE (spec 00_scope.md R13, 10_state.md R30 to R32, 30_encoding.md R90). -/

namespace Sys2Proof

/-- One byte of a byte string (R14). -/
abbrev Byte := BitVec 8

/-- `u32` of R13: one word of the host's bus, and one command word. -/
abbrev U32 := BitVec 32

/-- `u256` of R13: the contents of one field register. -/
abbrev U256 := BitVec 256

/-- The number of a field register, `F0` to `F15` (R31). -/
abbrev FReg := Fin 16

/-- The number of a point register, `P0` to `P3` (R32). -/
abbrev PReg := Fin 4

/-- The number of a 32-bit word inside a 256-bit register on the bus, word 0 the most significant (R66). -/
abbrev WordIdx := Fin 8

end Sys2Proof
end

