-- ==== Sys2Proof/Syntax.lean ====
section
/-! DEFINITION. The 27 commands of 30_encoding.md R95, one constructor per row of spec/opcode_table.json. Register numbers
of P operands are bounded by their type; the two relations between fields are in WellFormed.lean. -/

namespace Sys2Proof

/-- The modulus select M of FADD, FSUB, FMUL and FRED (R92): suffix `.p` or `.n`. -/
inductive Modulus where
  /-- `imm = 0`: modulo the field prime. -/
  | p
  /-- `imm = 1`: modulo the group order. -/
  | n
deriving DecidableEq, Repr

/-- The tag select TAG of THASH (R92, R198): suffix `.D` or `.C`. -/
inductive Tag where
  /-- `imm = 0`: `BIPSchnorrDerive`. -/
  | derive
  /-- `imm = 1`: `BIPSchnorr`. -/
  | challenge
deriving DecidableEq, Repr

/-- A command (R95). Arguments are named after the fields of the command word and stand in assembly order (R98). -/
inductive Instr where
  /-- `NOP` (R250). -/
  | nop
  /-- `FMOV Fd, Fa` (R251). -/
  | fmov (rd ra : FReg)
  /-- `FSEL Fd, Fa, Fb` (R252). -/
  | fsel (rd ra rb : FReg)
  /-- `FEQ Fa, Fb` (R253). -/
  | feq (ra rb : FReg)
  /-- `FADD.p` and `FADD.n` `Fd, Fa, Fb` (R129). -/
  | fadd (m : Modulus) (rd ra rb : FReg)
  /-- `FSUB.p` and `FSUB.n` `Fd, Fa, Fb` (R130). -/
  | fsub (m : Modulus) (rd ra rb : FReg)
  /-- `FMUL.p` and `FMUL.n` `Fd, Fa, Fb` (R131). -/
  | fmul (m : Modulus) (rd ra rb : FReg)
  /-- `FRED.p` and `FRED.n` `Fd, Fa` (R132). -/
  | fred (m : Modulus) (rd ra : FReg)
  /-- `FINV Fd, Fa` (R133). -/
  | finv (rd ra : FReg)
  /-- `FEXP Fd, Fa, Fb` (R135). -/
  | fexp (rd ra rb : FReg)
  /-- `FSQRT Fd, Fa` (R136). -/
  | fsqrt (rd ra : FReg)
  /-- `FISQ Fa` (R134). -/
  | fisq (ra : FReg)
  /-- `PINF Pd` (R153). -/
  | pinf (rd : PReg)
  /-- `PLDG Pd` (R154). -/
  | pldg (rd : PReg)
  /-- `PMOV Pd, Pa` (R155). -/
  | pmov (rd ra : PReg)
  /-- `PSET Pd, Fa, Fb` (R156). -/
  | pset (rd : PReg) (ra rb : FReg)
  /-- `PGETX Fd, Pa` (R183). -/
  | pgetx (rd : FReg) (ra : PReg)
  /-- `PGETY Fd, Pa` (R157). -/
  | pgety (rd : FReg) (ra : PReg)
  /-- `PISINF Pa` (R158). -/
  | pisinf (ra : PReg)
  /-- `PLIFT Pd, Fa` (R182). -/
  | plift (rd : PReg) (ra : FReg)
  /-- `PADD Pd, Pa, Pb` (R159). -/
  | padd (rd ra rb : PReg)
  /-- `PDBL Pd, Pa` (R161). -/
  | pdbl (rd ra : PReg)
  /-- `PMUL Pd, Pa, Fb` (R162). -/
  | pmul (rd ra : PReg) (rb : FReg)
  /-- `THASH.D` and `THASH.C` `Fd, Fa, #cnt` (R198): `cnt` is the field `rc`. -/
  | thash (tag : Tag) (rd ra : FReg) (cnt : Fin 16)
  /-- `KEYGEN Fd, Fa` (R221). -/
  | keygen (rd ra : FReg)
  /-- `SIGN Fd, Fc, Fa, Fb` (R231). -/
  | sign (rd rc ra rb : FReg)
  /-- `VERIFY Fa, Fb, Fc, Fd` (R241): the last operand goes in field `rd` (R98). -/
  | verify (ra rb rc rd : FReg)
deriving DecidableEq, Repr

end Sys2Proof
end

