-- ==== Sys2Proof/WellFormed.lean ====
section
/-! DEFINITION. Which terms of Instr are commands: the two relations between fields that 30_encoding.md R96 demands
(cases 6 and 7). Every other constraint of R92 is in the types of the operands. -/

namespace Sys2Proof

/-- R96 case 6: THASH hashes the registers `ra` to `ra + cnt - 1`, and none lies past `F15`. -/
def hashInRange (ra : FReg) (cnt : Fin 16) : Bool := decide (ra.val + cnt.val ≤ 16)

/-- R96 case 7: the two destinations of SIGN differ. -/
def destinationsDiffer (rd rc : FReg) : Bool := decide (rd ≠ rc)

/-- A term that stands for a legal command (R92, R96). -/
def Instr.wf : Instr → Bool
  | .nop => true
  | .fmov _ _ => true
  | .fsel _ _ _ => true
  | .feq _ _ => true
  | .fadd _ _ _ _ => true
  | .fsub _ _ _ _ => true
  | .fmul _ _ _ _ => true
  | .fred _ _ _ => true
  | .finv _ _ => true
  | .fexp _ _ _ => true
  | .fsqrt _ _ => true
  | .fisq _ => true
  | .pinf _ => true
  | .pldg _ => true
  | .pmov _ _ => true
  | .pset _ _ _ => true
  | .pgetx _ _ => true
  | .pgety _ _ => true
  | .pisinf _ => true
  | .plift _ _ => true
  | .padd _ _ _ => true
  | .pdbl _ _ => true
  | .pmul _ _ _ => true
  | .thash _ _ ra cnt => hashInRange ra cnt
  | .keygen _ _ => true
  | .sign rd rc _ _ => destinationsDiffer rd rc
  | .verify _ _ _ _ => true

end Sys2Proof
end

