-- ==== Sys2Proof/Decode.lean ====
section
/-! DEFINITION. The command word of format C (30_encoding.md R90), its decoder, total on all 2^32 words and rejecting by
name, the encoder, the command table of R95 as data with the legality test of R96 written over it, and the assembler's
spelling (R98). -/

namespace Sys2Proof

/-- The six fields of format C (R90). -/
structure Command where
  /-- Bits 31:24. -/
  op : Byte
  /-- Bits 23:20. -/
  rd : BitVec 4
  /-- Bits 19:16. -/
  ra : BitVec 4
  /-- Bits 15:12. -/
  rb : BitVec 4
  /-- Bits 11:8. -/
  rc : BitVec 4
  /-- Bits 7:0. -/
  imm : Byte
deriving DecidableEq, Repr

/-- Takes a command word apart (R90). -/
def fieldsOf (w : U32) : Command where
  op := w.extractLsb' 24 8
  rd := w.extractLsb' 20 4
  ra := w.extractLsb' 16 4
  rb := w.extractLsb' 12 4
  rc := w.extractLsb' 8 4
  imm := w.extractLsb' 0 8

/-- Puts a command word together: `op·2^24 + rd·2^20 + ra·2^16 + rb·2^12 + rc·2^8 + imm` (R95). -/
def wordOf (c : Command) : U32 := c.op ++ c.rd ++ c.ra ++ c.rb ++ c.rc ++ c.imm

/-- Why a word is no legal command: the seven cases of R96. The machine records one code for all of them (ILLEGAL_CMD),
so the name is for the reader alone. -/
inductive Illegal where
  /-- Case 1: `op` is none of the 27 opcodes. -/
  | unassignedOpcode
  /-- Case 2: a field the command does not use is not zero. -/
  | unusedFieldNotZero
  /-- Case 3: a P field has a value 4 to 15. -/
  | pointRegisterAbove3
  /-- Case 4: the modulus select is 2 or more. -/
  | modulusSelect
  /-- Case 5: the tag select is 2 or more. -/
  | tagSelect
  /-- Case 6: THASH runs past `F15`. -/
  | hashPastF15
  /-- Case 7: the two destinations of SIGN are the same register. -/
  | signSameDestination
deriving DecidableEq, Repr

/-- A field that must be 0 (R92). -/
def zeroField {k : Nat} (v : BitVec k) : Except Illegal Unit :=
  if v = 0#k then .ok () else .error .unusedFieldNotZero

/-- A field naming an F register: all 16 values are legal (R92). -/
def fField (v : BitVec 4) : FReg := ⟨v.toNat, v.isLt⟩

/-- A field naming a P register: bits 3:2 must be 0 (R92). -/
def pField (v : BitVec 4) : Except Illegal PReg :=
  if h : v.toNat < 4 then .ok ⟨v.toNat, h⟩ else .error .pointRegisterAbove3

/-- The modulus select M (R92). -/
def modulusField (v : Byte) : Except Illegal Modulus :=
  if v = 0#8 then .ok .p else if v = 1#8 then .ok .n else .error .modulusSelect

/-- The tag select TAG (R92). -/
def tagField (v : Byte) : Except Illegal Tag :=
  if v = 0#8 then .ok .derive else if v = 1#8 then .ok .challenge else .error .tagSelect

/-- The command a word's fields stand for, row by row of R95. -/
def decodeCommand (c : Command) : Except Illegal Instr :=
  match c.op.toNat with
  | 0x00 => do
    zeroField c.rd; zeroField c.ra; zeroField c.rb; zeroField c.rc; zeroField c.imm
    return .nop
  | 0x01 => do
    zeroField c.rb; zeroField c.rc; zeroField c.imm
    return .fmov (fField c.rd) (fField c.ra)
  | 0x02 => do
    zeroField c.rc; zeroField c.imm
    return .fsel (fField c.rd) (fField c.ra) (fField c.rb)
  | 0x03 => do
    zeroField c.rd; zeroField c.rc; zeroField c.imm
    return .feq (fField c.ra) (fField c.rb)
  | 0x10 => do
    zeroField c.rc
    return .fadd (← modulusField c.imm) (fField c.rd) (fField c.ra) (fField c.rb)
  | 0x11 => do
    zeroField c.rc
    return .fsub (← modulusField c.imm) (fField c.rd) (fField c.ra) (fField c.rb)
  | 0x12 => do
    zeroField c.rc
    return .fmul (← modulusField c.imm) (fField c.rd) (fField c.ra) (fField c.rb)
  | 0x13 => do
    zeroField c.rb; zeroField c.rc
    return .fred (← modulusField c.imm) (fField c.rd) (fField c.ra)
  | 0x14 => do
    zeroField c.rb; zeroField c.rc; zeroField c.imm
    return .finv (fField c.rd) (fField c.ra)
  | 0x15 => do
    zeroField c.rc; zeroField c.imm
    return .fexp (fField c.rd) (fField c.ra) (fField c.rb)
  | 0x16 => do
    zeroField c.rb; zeroField c.rc; zeroField c.imm
    return .fsqrt (fField c.rd) (fField c.ra)
  | 0x17 => do
    zeroField c.rd; zeroField c.rb; zeroField c.rc; zeroField c.imm
    return .fisq (fField c.ra)
  | 0x20 => do
    zeroField c.ra; zeroField c.rb; zeroField c.rc; zeroField c.imm
    return .pinf (← pField c.rd)
  | 0x21 => do
    zeroField c.ra; zeroField c.rb; zeroField c.rc; zeroField c.imm
    return .pldg (← pField c.rd)
  | 0x22 => do
    zeroField c.rb; zeroField c.rc; zeroField c.imm
    return .pmov (← pField c.rd) (← pField c.ra)
  | 0x23 => do
    zeroField c.rc; zeroField c.imm
    return .pset (← pField c.rd) (fField c.ra) (fField c.rb)
  | 0x24 => do
    zeroField c.rb; zeroField c.rc; zeroField c.imm
    return .pgetx (fField c.rd) (← pField c.ra)
  | 0x25 => do
    zeroField c.rb; zeroField c.rc; zeroField c.imm
    return .pgety (fField c.rd) (← pField c.ra)
  | 0x26 => do
    zeroField c.rd; zeroField c.rb; zeroField c.rc; zeroField c.imm
    return .pisinf (← pField c.ra)
  | 0x27 => do
    zeroField c.rb; zeroField c.rc; zeroField c.imm
    return .plift (← pField c.rd) (fField c.ra)
  | 0x28 => do
    zeroField c.rc; zeroField c.imm
    return .padd (← pField c.rd) (← pField c.ra) (← pField c.rb)
  | 0x29 => do
    zeroField c.rb; zeroField c.rc; zeroField c.imm
    return .pdbl (← pField c.rd) (← pField c.ra)
  | 0x2A => do
    zeroField c.rc; zeroField c.imm
    return .pmul (← pField c.rd) (← pField c.ra) (fField c.rb)
  | 0x30 => do
    zeroField c.rb
    let tag ← tagField c.imm
    if hashInRange (fField c.ra) (fField c.rc) then
      return .thash tag (fField c.rd) (fField c.ra) (fField c.rc)
    else throw .hashPastF15
  | 0x40 => do
    zeroField c.rb; zeroField c.rc; zeroField c.imm
    return .keygen (fField c.rd) (fField c.ra)
  | 0x41 => do
    zeroField c.imm
    if destinationsDiffer (fField c.rd) (fField c.rc) then
      return .sign (fField c.rd) (fField c.rc) (fField c.ra) (fField c.rb)
    else throw .signSameDestination
  | 0x42 => do
    zeroField c.imm
    return .verify (fField c.ra) (fField c.rb) (fField c.rc) (fField c.rd)
  | _ => .error .unassignedOpcode

/-- The decoder: the command a word stands for, or why it is illegal (R92, R95, R96). -/
def decode (w : U32) : Except Illegal Instr := decodeCommand (fieldsOf w)

/-- The field of an F register number (R92). -/
def fBits (r : FReg) : BitVec 4 := BitVec.ofNat 4 r.val

/-- The field of a P register number (R92). -/
def pBits (r : PReg) : BitVec 4 := BitVec.ofNat 4 r.val

/-- The field of the modulus select (R92). -/
def modulusBits : Modulus → Byte
  | .p => 0#8
  | .n => 1#8

/-- The field of the tag select (R92). -/
def tagBits : Tag → Byte
  | .derive => 0#8
  | .challenge => 1#8

/-- The fields of a command's word, row by row of R95. -/
def commandOf : Instr → Command
  | .nop => ⟨0x00#8, 0#4, 0#4, 0#4, 0#4, 0#8⟩
  | .fmov rd ra => ⟨0x01#8, fBits rd, fBits ra, 0#4, 0#4, 0#8⟩
  | .fsel rd ra rb => ⟨0x02#8, fBits rd, fBits ra, fBits rb, 0#4, 0#8⟩
  | .feq ra rb => ⟨0x03#8, 0#4, fBits ra, fBits rb, 0#4, 0#8⟩
  | .fadd m rd ra rb => ⟨0x10#8, fBits rd, fBits ra, fBits rb, 0#4, modulusBits m⟩
  | .fsub m rd ra rb => ⟨0x11#8, fBits rd, fBits ra, fBits rb, 0#4, modulusBits m⟩
  | .fmul m rd ra rb => ⟨0x12#8, fBits rd, fBits ra, fBits rb, 0#4, modulusBits m⟩
  | .fred m rd ra => ⟨0x13#8, fBits rd, fBits ra, 0#4, 0#4, modulusBits m⟩
  | .finv rd ra => ⟨0x14#8, fBits rd, fBits ra, 0#4, 0#4, 0#8⟩
  | .fexp rd ra rb => ⟨0x15#8, fBits rd, fBits ra, fBits rb, 0#4, 0#8⟩
  | .fsqrt rd ra => ⟨0x16#8, fBits rd, fBits ra, 0#4, 0#4, 0#8⟩
  | .fisq ra => ⟨0x17#8, 0#4, fBits ra, 0#4, 0#4, 0#8⟩
  | .pinf rd => ⟨0x20#8, pBits rd, 0#4, 0#4, 0#4, 0#8⟩
  | .pldg rd => ⟨0x21#8, pBits rd, 0#4, 0#4, 0#4, 0#8⟩
  | .pmov rd ra => ⟨0x22#8, pBits rd, pBits ra, 0#4, 0#4, 0#8⟩
  | .pset rd ra rb => ⟨0x23#8, pBits rd, fBits ra, fBits rb, 0#4, 0#8⟩
  | .pgetx rd ra => ⟨0x24#8, fBits rd, pBits ra, 0#4, 0#4, 0#8⟩
  | .pgety rd ra => ⟨0x25#8, fBits rd, pBits ra, 0#4, 0#4, 0#8⟩
  | .pisinf ra => ⟨0x26#8, 0#4, pBits ra, 0#4, 0#4, 0#8⟩
  | .plift rd ra => ⟨0x27#8, pBits rd, fBits ra, 0#4, 0#4, 0#8⟩
  | .padd rd ra rb => ⟨0x28#8, pBits rd, pBits ra, pBits rb, 0#4, 0#8⟩
  | .pdbl rd ra => ⟨0x29#8, pBits rd, pBits ra, 0#4, 0#4, 0#8⟩
  | .pmul rd ra rb => ⟨0x2A#8, pBits rd, pBits ra, fBits rb, 0#4, 0#8⟩
  | .thash tag rd ra cnt => ⟨0x30#8, fBits rd, fBits ra, 0#4, fBits cnt, tagBits tag⟩
  | .keygen rd ra => ⟨0x40#8, fBits rd, fBits ra, 0#4, 0#4, 0#8⟩
  | .sign rd rc ra rb => ⟨0x41#8, fBits rd, fBits ra, fBits rb, fBits rc, 0#8⟩
  | .verify ra rb rc rd => ⟨0x42#8, fBits rd, fBits ra, fBits rb, fBits rc, 0#8⟩

/-- The encoder: the word of a well-formed command (R95). -/
def encode (i : Instr) : U32 := wordOf (commandOf i)

/-- What R95's table says of one field of a row. -/
inductive Mark where
  /-- The field must be zero. -/
  | zero
  /-- An F register: every value is legal. -/
  | f
  /-- A P register: 0 to 3. -/
  | p
  /-- The count of THASH: `ra + rc` at most 16. -/
  | count
  /-- The select M or TAG: 0 or 1. -/
  | select
deriving DecidableEq, Repr

/-- One row of the command table of R95: the opcode and the mark of each field. -/
structure OpRow where
  /-- The mnemonic of spec/opcode_table.json. -/
  mnemonic : String
  /-- The opcode. -/
  op : Byte
  /-- The mark of `rd`. -/
  rd : Mark
  /-- The mark of `ra`. -/
  ra : Mark
  /-- The mark of `rb`. -/
  rb : Mark
  /-- The mark of `rc`. -/
  rc : Mark
  /-- The mark of `imm`. -/
  imm : Mark
deriving DecidableEq, Repr

/-- The table of R95 as data, column by column. Written a second time, independently of `decodeCommand`. -/
def opTable : List OpRow :=
  [⟨"NOP", 0x00#8, .zero, .zero, .zero, .zero, .zero⟩,
   ⟨"FMOV", 0x01#8, .f, .f, .zero, .zero, .zero⟩,
   ⟨"FSEL", 0x02#8, .f, .f, .f, .zero, .zero⟩,
   ⟨"FEQ", 0x03#8, .zero, .f, .f, .zero, .zero⟩,
   ⟨"FADD", 0x10#8, .f, .f, .f, .zero, .select⟩,
   ⟨"FSUB", 0x11#8, .f, .f, .f, .zero, .select⟩,
   ⟨"FMUL", 0x12#8, .f, .f, .f, .zero, .select⟩,
   ⟨"FRED", 0x13#8, .f, .f, .zero, .zero, .select⟩,
   ⟨"FINV", 0x14#8, .f, .f, .zero, .zero, .zero⟩,
   ⟨"FEXP", 0x15#8, .f, .f, .f, .zero, .zero⟩,
   ⟨"FSQRT", 0x16#8, .f, .f, .zero, .zero, .zero⟩,
   ⟨"FISQ", 0x17#8, .zero, .f, .zero, .zero, .zero⟩,
   ⟨"PINF", 0x20#8, .p, .zero, .zero, .zero, .zero⟩,
   ⟨"PLDG", 0x21#8, .p, .zero, .zero, .zero, .zero⟩] ++
  [⟨"PMOV", 0x22#8, .p, .p, .zero, .zero, .zero⟩,
   ⟨"PSET", 0x23#8, .p, .f, .f, .zero, .zero⟩,
   ⟨"PGETX", 0x24#8, .f, .p, .zero, .zero, .zero⟩,
   ⟨"PGETY", 0x25#8, .f, .p, .zero, .zero, .zero⟩,
   ⟨"PISINF", 0x26#8, .zero, .p, .zero, .zero, .zero⟩,
   ⟨"PLIFT", 0x27#8, .p, .f, .zero, .zero, .zero⟩,
   ⟨"PADD", 0x28#8, .p, .p, .p, .zero, .zero⟩,
   ⟨"PDBL", 0x29#8, .p, .p, .zero, .zero, .zero⟩,
   ⟨"PMUL", 0x2A#8, .p, .p, .f, .zero, .zero⟩,
   ⟨"THASH", 0x30#8, .f, .f, .zero, .count, .select⟩,
   ⟨"KEYGEN", 0x40#8, .f, .f, .zero, .zero, .zero⟩,
   ⟨"SIGN", 0x41#8, .f, .f, .f, .f, .zero⟩,
   ⟨"VERIFY", 0x42#8, .f, .f, .f, .f, .zero⟩]

/-- The fields of a command with the row's marks, as R96 cases 2 and 3 go through them. -/
def markedFields (row : OpRow) (c : Command) : List (Mark × Nat) :=
  [(row.rd, c.rd.toNat), (row.ra, c.ra.toNat), (row.rb, c.rb.toNat), (row.rc, c.rc.toNat), (row.imm, c.imm.toNat)]

/-- `Legal(w)` of R96, the seven cases in its order, over the table of R95. -/
def legal (w : U32) : Bool :=
  let c := fieldsOf w
  match opTable.find? (fun row => row.op == c.op) with
  | none => false                                                                        -- case 1
  | some row =>
    !((markedFields row c).any (fun f => f.1 == Mark.zero && f.2 != 0)                   -- case 2
      || (markedFields row c).any (fun f => f.1 == Mark.p && decide (4 ≤ f.2))           -- case 3
      || ([0x10#8, 0x11#8, 0x12#8, 0x13#8].contains c.op && decide (2 ≤ c.imm.toNat))    -- case 4
      || (c.op == 0x30#8 && decide (2 ≤ c.imm.toNat))                                    -- case 5
      || (c.op == 0x30#8 && decide (16 < c.ra.toNat + c.rc.toNat))                       -- case 6
      || (c.op == 0x41#8 && c.rd == c.rc))                                               -- case 7

/-- The mnemonic of a command, the key of its row in `opTable` (R95). -/
def mnemonicOf : Instr → String
  | .nop => "NOP"
  | .fmov _ _ => "FMOV"
  | .fsel _ _ _ => "FSEL"
  | .feq _ _ => "FEQ"
  | .fadd _ _ _ _ => "FADD"
  | .fsub _ _ _ _ => "FSUB"
  | .fmul _ _ _ _ => "FMUL"
  | .fred _ _ _ => "FRED"
  | .finv _ _ => "FINV"
  | .fexp _ _ _ => "FEXP"
  | .fsqrt _ _ => "FSQRT"
  | .fisq _ => "FISQ"
  | .pinf _ => "PINF"
  | .pldg _ => "PLDG"
  | .pmov _ _ => "PMOV"
  | .pset _ _ _ => "PSET"
  | .pgetx _ _ => "PGETX"
  | .pgety _ _ => "PGETY"
  | .pisinf _ => "PISINF"
  | .plift _ _ => "PLIFT"
  | .padd _ _ _ => "PADD"
  | .pdbl _ _ => "PDBL"
  | .pmul _ _ _ => "PMUL"
  | .thash _ _ _ _ => "THASH"
  | .keygen _ _ => "KEYGEN"
  | .sign _ _ _ _ => "SIGN"
  | .verify _ _ _ _ => "VERIFY"

/-- The mandatory suffix of FADD, FSUB, FMUL, FRED and THASH (R98). -/
def suffixOf : Instr → String
  | .fadd .p _ _ _ | .fsub .p _ _ _ | .fmul .p _ _ _ | .fred .p _ _ => ".p"
  | .fadd .n _ _ _ | .fsub .n _ _ _ | .fmul .n _ _ _ | .fred .n _ _ => ".n"
  | .thash .derive _ _ _ => ".D"
  | .thash .challenge _ _ _ => ".C"
  | _ => ""

/-- `F0` to `F15` (R98). -/
def fName (r : FReg) : String := "F" ++ toString r.val

/-- `P0` to `P3` (R98). -/
def pName (r : PReg) : String := "P" ++ toString r.val

/-- The operands of a command in assembly order, destination first but for VERIFY (R98). -/
def operandsOf : Instr → List String
  | .nop => []
  | .fmov rd ra | .fred _ rd ra | .finv rd ra | .fsqrt rd ra | .keygen rd ra => [fName rd, fName ra]
  | .fsel rd ra rb | .fadd _ rd ra rb | .fsub _ rd ra rb | .fmul _ rd ra rb | .fexp rd ra rb =>
    [fName rd, fName ra, fName rb]
  | .feq ra rb => [fName ra, fName rb]
  | .fisq ra => [fName ra]
  | .pinf rd | .pldg rd => [pName rd]
  | .pmov rd ra | .pdbl rd ra => [pName rd, pName ra]
  | .pset rd ra rb => [pName rd, fName ra, fName rb]
  | .pgetx rd ra | .pgety rd ra => [fName rd, pName ra]
  | .pisinf ra => [pName ra]
  | .plift rd ra => [pName rd, fName ra]
  | .padd rd ra rb => [pName rd, pName ra, pName rb]
  | .pmul rd ra rb => [pName rd, pName ra, fName rb]
  | .thash _ rd ra cnt => [fName rd, fName ra, "#" ++ toString cnt.val]
  | .sign rd rc ra rb => [fName rd, fName rc, fName ra, fName rb]
  | .verify ra rb rc rd => [fName ra, fName rb, fName rc, fName rd]

/-- The assembly line of a command (R98): mnemonic, suffix, operands separated by commas. -/
def assemblyOf (i : Instr) : String :=
  mnemonicOf i ++ suffixOf i ++
    (match operandsOf i with
     | [] => ""
     | ops => " " ++ String.intercalate ", " ops)

/-- The instruction the decoder reads from the table's `nbits` bits `w` (the host's fixed name). A command is one 32-bit
number and has no byte order (R90), so the word is given to the decoder as it is; bits above `nbits` are 0. -/
def decodeTableWord (nbits w : Nat) : Option Instr :=
  (decode (BitVec.ofNat 32 (w % 2 ^ nbits))).toOption

end Sys2Proof
end

