-- ==== Sys2Proof/Machine/Bytes.lean ====
section
/-! DEFINITION. Byte strings and bus words of a 256-bit value (00_scope.md R14, 20_memory.md R66). -/

namespace Sys2Proof.Machine

/-- `bytes32(v)`: byte k is `v[255-8k : 248-8k]`, the most significant byte first (R14). -/
def bytes32 (v : U256) : List Byte := (List.range 32).map fun k => v.extractLsb' (248 - 8 * k) 8

/-- `int(b)` for a 32-byte string: the inverse of `bytes32` (R14). -/
def intOfBytes (b : List Byte) : U256 :=
  BitVec.ofNat 256 (b.foldl (fun acc x => 256 * acc + x.toNat) 0)

/-- The lowest bit of bus word j of a 256-bit value: word 0 is the most significant (R66). -/
def wordShift (j : WordIdx) : Nat := 224 - 32 * j.val

/-- Bus word j of a 256-bit value: `v[255-32j : 224-32j]` (R66). -/
def getWord (v : U256) (j : WordIdx) : U32 := v.extractLsb' (wordShift j) 32

/-- The value with bus word j replaced, the other 224 bits kept (R63, R66). -/
def setWord (v : U256) (j : WordIdx) (x : U32) : U256 :=
  (v &&& ~~~((0xFFFFFFFF#256) <<< wordShift j)) ||| (x.setWidth 256 <<< wordShift j)

/-- A 32-bit word as 4 bytes, big-endian (R191). -/
def bytes4 (w : U32) : List Byte :=
  [w.extractLsb' 24 8, w.extractLsb' 16 8, w.extractLsb' 8 8, w.extractLsb' 0 8]

/-- 4 bytes as a big-endian 32-bit word (R195). -/
def wordOfBytes (b : List Byte) : U32 :=
  BitVec.ofNat 32 (b.foldl (fun acc x => 256 * acc + x.toNat) 0)

end Sys2Proof.Machine
end

