-- ==== Sys2Proof/Config.lean ====
section
/-! DEFINITION. What is fixed for the machine: the hardwired constants of 00_scope.md R7 to R11 and the tag strings of
44_tagged_hash.md R197, the one parameter the spec leaves open (BASE, R7, R60), and the one free value (the data of a bus
read answered ERROR, R62). -/

namespace Sys2Proof.Config

/-- `p`, the prime of the curve's base field (R9). -/
def fieldPrime : Nat := 0xFFFFFFFFFFFFFFFFFFFFFFFFFFFFFFFFFFFFFFFFFFFFFFFFFFFFFFFEFFFFFC2F

/-- `n`, the order of the curve's group (R10). -/
def groupOrder : Nat := 0xFFFFFFFFFFFFFFFFFFFFFFFFFFFFFFFEBAAEDCE6AF48A03BBFD25E8CD0364141

/-- The constant 7 of `y² = x³ + 7` (R8). -/
def curveB : Nat := 7

/-- `Gx`, the x-coordinate of the base point (R11). -/
def baseX : U256 := 0x79BE667EF9DCBBAC55A06295CE870B07029BFCDB2DCE28D959F2815B16F81798#256

/-- `Gy`, the y-coordinate of the base point (R11). -/
def baseY : U256 := 0x483ADA7726A3C4655DA4FBFC0E1108A8FD17B448A68554199C47D08FFB10D4B8#256

/-- The ASCII bytes of the tag `BIPSchnorrDerive` (R197, TAG 0). -/
def tagDerive : List Byte :=
  [0x42#8, 0x49#8, 0x50#8, 0x53#8, 0x63#8, 0x68#8, 0x6e#8, 0x6f#8, 0x72#8, 0x72#8,
   0x44#8, 0x65#8, 0x72#8, 0x69#8, 0x76#8, 0x65#8]

/-- The ASCII bytes of the tag `BIPSchnorr` (R197, TAG 1). -/
def tagChallenge : List Byte :=
  [0x42#8, 0x49#8, 0x50#8, 0x53#8, 0x63#8, 0x68#8, 0x6e#8, 0x6f#8, 0x72#8, 0x72#8]

/-- How many bytes the register window spans (R7, R60). -/
def windowBytes : Nat := 4096

/-- The number of iterations of `point_mul`, whatever the scalar (R7, R160). -/
def mulIterations : Nat := 256

/-- The open parameter of R7 and R60, in pages of 4096 bytes: the platform fixes it and the spec gives no value
(92_eei_decisions.md D2 OPEN, 93_implementation_defined.md I7). No body, so nothing can rest on a number. -/
opaque basePage : Nat

/-- `BASE`, the bus address of the window: a multiple of 4096 (R60). -/
def base : Nat := windowBytes * basePage

/-- FREE VALUE (assumption log 3): the data word of the k-th bus read answered ERROR. R62: the value is unspecified, any
`u32` (93_implementation_defined.md I8). No body: no value of it can be proved. -/
opaque errorReadData : Nat → U32

end Sys2Proof.Config
end

