-- ==== Sys2Proof/Machine/State.lean ====
section
/-! DEFINITION. Everything the spec gives the machine as plain data (10_state.md R30 to R49), the order in which its agents
move (20_memory.md R72, R78), the ways a command fails (60_exceptions.md R261), and the state after reset (R48, R290). -/

namespace Sys2Proof.Machine

/-- `Point` of 00_scope.md R17: infinity, or a pair of coordinates. A tagged variant, no sentinel (R18 c). -/
inductive Point where
  /-- `Inf`, the identity of the group. -/
  | inf
  /-- `Aff(x, y)`. -/
  | aff (x y : U256)
deriving DecidableEq, Repr

/-- The causes of a command error (60_exceptions.md R261). The machine goes on: an error is an effect, not a stop. -/
inductive CmdError where
  /-- `0x01`: the word is no legal command (R96). -/
  | illegalCmd
  /-- `0x02`: an operand that must be below the modulus is not (R120). -/
  | operandRange
  /-- `0x03`: inversion of 0 (R125). -/
  | invZero
  /-- `0x04`: the operand has no square root modulo p (R126). -/
  | noSqrt
  /-- `0x05`: no curve point has this x (R181). -/
  | pointDecode
  /-- `0x06`: the coordinates do not satisfy the curve equation (R156). -/
  | notOnCurve
  /-- `0x07`: a coordinate of infinity was asked for (R157, R183). -/
  | infinity
  /-- `0x08`: the secret is 0 or not below n (R220, R230). -/
  | invalidSecretKey
  /-- `0x09`: the derived nonce is 0 (R230). -/
  | zeroNonce
deriving DecidableEq, Repr

/-- One access of the host to the register window (20_memory.md R62, R63), at an offset from BASE: the window has 4096
bytes, so an offset is 12 bits. `width` is the number of bytes of the access. -/
inductive Access where
  /-- `MemRead(BASE + off, width)`. -/
  | read (off : BitVec 12) (width : Nat)
  /-- `MemWrite(BASE + off, width, value)`. -/
  | write (off : BitVec 12) (width : Nat) (value : U32)
deriving DecidableEq, Repr

/-- The window's answer to an access (R62, R63). -/
inductive Response where
  /-- `OKAY` and the value read. -/
  | readOkay (value : U32)
  /-- `ERROR`: the value is a free value (assumption log 3). -/
  | readError (value : U32)
  /-- `OKAY` to a write. -/
  | writeOkay
  /-- `ERROR` to a write: no state changed. -/
  | writeError
deriving DecidableEq, Repr

/-- What happens next at the machine: a run is one sequence of these (R72, R78). -/
inductive Event where
  /-- The bus delivers an access of the host. -/
  | access (a : Access)
  /-- The engine takes its completion step (enabled exactly when BUSY = 1). -/
  | engine
  /-- The reset input is asserted and released (70_reset_and_hazards.md R290). -/
  | resetInput
deriving DecidableEq, Repr

/-- The ways a step could stop the machine: NONE. 93_implementation_defined.md, part 1: nothing in this hardware is stuck
and no behaviour is unpredictable. Every failure is a command error (R260) or a bus ERROR response (R65), and the machine goes on
after both. No constructor, so no step can answer `fault` (safe). -/
inductive Fault where
deriving DecidableEq, Repr

/-- The refusals of `exec`. -/
inductive Refusal where
  /-- Raised by an arm of `exec` whose command has no meaning yet, and by nothing else (safe). No arm is refused. -/
  | notModelled (mnemonic : String)
deriving DecidableEq, Repr

/-- The state of one block: the architectural state of R30, and the model's own three fields `agenda`, `response` and
`freeReads`. -/
structure State where
  /-- `F[0]` to `F[15]` (R31). -/
  f : Vector U256 16
  /-- `P[0]` to `P[3]` (R32). -/
  p : Vector Point 4
  /-- The flag `T` (R34). -/
  t : Bool
  /-- `CMDREG`, the last accepted command word (R35). -/
  cmdreg : U32
  /-- `BUSY`: a command is executing (R36). -/
  busy : Bool
  /-- `DONE`: the last accepted command has finished (R36). -/
  done : Bool
  /-- `ERR`: a command error is recorded (R36). -/
  err : Bool
  /-- `ERRCODE`: its code, 0 when `ERR = 0` (R36, R261). -/
  errcode : Byte
  /-- The MODEL's own (assumption log 1): the events to come, the next one first. When the list is empty the engine
  moves if a command is in flight, and nothing happens otherwise. -/
  agenda : List Event
  /-- The MODEL's own (assumption log 2): the window's answer to the last access, as the host saw it. -/
  response : Option Response
  /-- The MODEL's own (assumption log 3): how many free values have been used. -/
  freeReads : Nat
deriving DecidableEq, Repr

/-- The state after hardware reset (R48, R290): every F register 0, every P register `Inf`, T, CMDREG and the status bits
0. The model's own fields start empty (assumption log 4). -/
def State.reset : State where
  f := Vector.replicate 16 0#256
  p := Vector.replicate 4 .inf
  t := false
  cmdreg := 0#32
  busy := false
  done := false
  err := false
  errcode := 0#8
  agenda := []
  response := none
  freeReads := 0

end Sys2Proof.Machine
end

