-- ==== Sys2Proof/Machine/Ops.lean ====
section
/-! DEFINITION. The named operations on the state that every command and every bus access goes through: the two register
files and the flag (00_scope.md R15), the status bits as a state machine (60_exceptions.md R270), error entry (R262) and error
return (R263), and reset (R48). -/

namespace Sys2Proof.Machine

/-- `F[r]` (R15). -/
def State.readF (s : State) (r : FReg) : U256 := s.f[r]

/-- `F[r] <- v` (R15, R31: no F register is hardwired). -/
def State.writeF (s : State) (r : FReg) (v : U256) : State := { s with f := s.f.set r v }

/-- `P[r]` (R15). -/
def State.readP (s : State) (r : PReg) : Point := s.p[r]

/-- `P[r] <- q` (R15, R32). -/
def State.writeP (s : State) (r : PReg) (q : Point) : State := { s with p := s.p.set r q }

/-- `T <- b` (R15, R34). -/
def State.setT (s : State) (b : Bool) : State := { s with t := b }

/-- The code of each cause (R261). -/
def CmdError.code : CmdError → Byte
  | .illegalCmd => 0x01#8
  | .operandRange => 0x02#8
  | .invZero => 0x03#8
  | .noSqrt => 0x04#8
  | .pointDecode => 0x05#8
  | .notOnCurve => 0x06#8
  | .infinity => 0x07#8
  | .invalidSecretKey => 0x08#8
  | .zeroNonce => 0x09#8

/-- ERROR ENTRY (R262), the machine's one kind of exception: `ERR <- 1; ERRCODE <- code; BUSY <- 0; DONE <- 1`, and nothing
else changes. -/
def State.takeError (s : State) (e : CmdError) : State :=
  { s with err := true, errcode := e.code, busy := false, done := true }

/-- ERROR RETURN (R263, CTRL.CLRERR of R37): `ERR <- 0; ERRCODE <- 0`, and nothing else changes. -/
def State.clearError (s : State) : State := { s with err := false, errcode := 0#8 }

/-- Completion without error (R91, R270): `BUSY <- 0; DONE <- 1`. -/
def State.complete (s : State) : State := { s with busy := false, done := true }

/-- Acceptance of a command word (R68): `CMDREG <- w; BUSY <- 1; DONE <- 0`, and nothing else changes. -/
def State.accept (s : State) (w : U32) : State := { s with cmdreg := w, busy := true, done := false }

/-- Reset of the block (R48; R290 by the reset input, R291 by CTRL.SRST): every piece of architectural state takes its reset
value. The model's own fields are not the block's and stay (assumption log 4). -/
def State.resetBlock (s : State) : State :=
  { State.reset with agenda := s.agenda, response := s.response, freeReads := s.freeReads }

/-- The end of the completion step (R91) for a command whose rule gave `r` in the state `s`: either its writes, then
`BUSY <- 0; DONE <- 1`, or the error entry over `s` itself, none of the command's writes made (R15, R262). -/
def finish (s : State) (r : Except CmdError State) : Host.Outcome State Fault Refusal :=
  match r with
  | .ok s' => .next s'.complete
  | .error e => .next (s.takeError e)

end Sys2Proof.Machine
end

