-- ==== Sys2Proof/Machine/Field.lean ====
section
/-! DEFINITION. The pure functions of 41_field_arithmetic.md R121 to R128, on non-negative integers (00_scope.md R13) with
the modulus as an argument, so that no intermediate result is ever cut (R127). -/

namespace Sys2Proof.Machine

/-- The modulus M selects (R92, R120). -/
def modulusOf : Modulus → Nat
  | .p => Config.fieldPrime
  | .n => Config.groupOrder

/-- `fadd_m(a, b)`: the exact sum, reduced (R121). -/
def fadd (m a b : Nat) : Nat := (a + b) % m

/-- `fsub_m(a, b)`: the difference modulo m, never negative (R122). -/
def fsub (m a b : Nat) : Nat := (a + (m - b % m)) % m

/-- `fmul_m(a, b)`: the exact product, reduced (R123). -/
def fmul (m a b : Nat) : Nat := a * b % m

/-- `a^e mod m` for an exponent of at most `k` bits, by squaring and multiplying. How a power is computed is not
architectural (R124, 93_implementation_defined.md I10). -/
def powMod (m a : Nat) : (k e : Nat) → Nat
  | 0, _ => 1 % m
  | k + 1, e =>
    let half := powMod m a k (e / 2)
    let square := half * half % m
    if e % 2 = 1 then square * a % m else square

/-- `fexp(a, e)`: modulo p, any 256-bit exponent, `fexp(a, 0) = 1` for every a (R124). -/
def fexp (a e : Nat) : Nat := powMod Config.fieldPrime a 256 e

/-- `finv(a)`: the test for 0 comes first, then the power `a^(p-2)` (R125). -/
def finv (a : Nat) : Except CmdError Nat :=
  if a = 0 then .error .invZero else .ok (fexp a (Config.fieldPrime - 2))

/-- The candidate root `c^((p+1)/4)` (R126). -/
def rootCandidate (c : Nat) : Nat := fexp c ((Config.fieldPrime + 1) / 4)

/-- `fsqrt(c)`: the candidate if its square is c, else NO_SQRT (R126). -/
def fsqrt (c : Nat) : Except CmdError Nat :=
  let y := rootCandidate c
  if fmul Config.fieldPrime y y = c then .ok y else .error .noSqrt

/-- `is_quad(v)`: Euler's criterion (R128). -/
def isQuad (v : Nat) : Bool := fexp v ((Config.fieldPrime - 1) / 2) == 1

end Sys2Proof.Machine
end

