-- ==== Sys2Proof/Machine/Curve.lean ====
section
/-! DEFINITION. The pure functions on points: the group law (42_curve_point.md R151, R152), scalar multiplication (R160), and
the x-only decoder (43_encoding_xonly.md R181). -/

namespace Sys2Proof.Machine

/-- `x³ + 7 mod p` (R156, R181). -/
def curveRhs (x : Nat) : Nat :=
  fadd Config.fieldPrime (fmul Config.fieldPrime (fmul Config.fieldPrime x x) x) Config.curveB

/-- The curve equation `y² = x³ + 7` modulo p (R8, R156). -/
def onCurve (x y : Nat) : Bool := fmul Config.fieldPrime y y == curveRhs x

/-- A Point in the document's sense: infinity, or coordinates below p on the curve (R17, R33). -/
def Point.valid : Point → Bool
  | .inf => true
  | .aff x y => decide (x.toNat < Config.fieldPrime) && decide (y.toNat < Config.fieldPrime) && onCurve x.toNat y.toNat

/-- The base point G (R11). -/
def basePoint : Point := .aff Config.baseX Config.baseY

/-- The tail of cases 4 and 5 of R151: the third point on the line of slope `lam`, mirrored. -/
def chordPoint (lam x1 y1 x2 : Nat) : Point :=
  let x3 := fsub Config.fieldPrime (fsub Config.fieldPrime (fmul Config.fieldPrime lam lam) x1) x2
  let y3 := fsub Config.fieldPrime (fmul Config.fieldPrime lam (fsub Config.fieldPrime x1 x3)) y1
  .aff (BitVec.ofNat 256 x3) (BitVec.ofNat 256 y3)

/-- The slope of case 4 of R151 (doubling): `3·x1² · (2·y1)⁻¹`, INV_ZERO if `2·y1` is 0. -/
def tangentSlope (x1 y1 : Nat) : Except CmdError Nat := do
  let inv ← finv (fmul Config.fieldPrime 2 y1)
  return fmul Config.fieldPrime (fmul Config.fieldPrime 3 (fmul Config.fieldPrime x1 x1)) inv

/-- The slope of case 5 of R151 (general addition): `(y2 - y1) · (x2 - x1)⁻¹`. -/
def chordSlope (x1 y1 x2 y2 : Nat) : Except CmdError Nat := do
  let inv ← finv (fsub Config.fieldPrime x2 x1)
  return fmul Config.fieldPrime (fsub Config.fieldPrime y2 y1) inv

/-- The slope of cases 4 and 5 of R151: the tangent for equal x-coordinates, else the chord. -/
def additionSlope (x1 y1 x2 y2 : U256) : Except CmdError Nat :=
  if x1 = x2 then tangentSlope x1.toNat y1.toNat else chordSlope x1.toNat y1.toNat x2.toNat y2.toNat

/-- `point_add(P1, P2)`: the five cases of R151, in its order. -/
def pointAdd : Point → Point → Except CmdError Point
  | .inf, q => .ok q
  | .aff x1 y1, .inf => .ok (.aff x1 y1)
  | .aff x1 y1, .aff x2 y2 =>
    if x1 = x2 ∧ y1 ≠ y2 then .ok .inf
    else do
      let lam ← additionSlope x1 y1 x2 y2
      return chordPoint lam x1.toNat y1.toNat x2.toNat

/-- `point_double(P)` (R152). -/
def pointDouble (q : Point) : Except CmdError Point := pointAdd q q

/-- The second line of R160's loop body: `if k[i] = 1: R <- point_add(R, P)`. -/
def addIfBit (bit : Bool) (d q : Point) : Except CmdError Point := if bit then pointAdd d q else .ok d

/-- The loop of R160 with `i` iterations left, over the bits `i-1` down to 0 of k, from the accumulator `r`. -/
def pointMulFrom (q : Point) (k : U256) : (i : Nat) → (r : Point) → Except CmdError Point
  | 0, r => .ok r
  | i + 1, r => do
    let d ← pointAdd r r
    let a ← addIfBit (k.getLsbD i) d q
    pointMulFrom q k i a

/-- `point_mul(P, k)`: exactly 256 iterations, the most significant bit first, from infinity (R160). -/
def pointMul (q : Point) (k : U256) : Except CmdError Point := pointMulFrom q k Config.mulIterations .inf

/-- `lift_x(x)`: the point with this x whose y is a quadratic residue, or POINT_DECODE (R181). -/
def liftX (x : U256) : Except CmdError Point :=
  if Config.fieldPrime ≤ x.toNat then .error .pointDecode
  else
    let c := curveRhs x.toNat
    let y := rootCandidate c
    if fmul Config.fieldPrime y y = c then .ok (.aff x (BitVec.ofNat 256 y)) else .error .pointDecode

end Sys2Proof.Machine
end

