-- ==== Sys2Proof/Machine/Sha256.lean ====
section
/-! DEFINITION. SHA-256 (44_tagged_hash.md R191 to R196) and the tagged hash (R197). -/

namespace Sys2Proof.Machine

/-- The eight words `H0` to `H7`, also the eight working variables `a` to `h` (R192, R196). -/
structure HashState where
  a : U32
  b : U32
  c : U32
  d : U32
  e : U32
  f : U32
  g : U32
  h : U32
deriving DecidableEq, Repr

/-- The initial state (R192). -/
def shaInit : HashState :=
  ⟨0x6a09e667#32, 0xbb67ae85#32, 0x3c6ef372#32, 0xa54ff53a#32, 0x510e527f#32, 0x9b05688c#32, 0x1f83d9ab#32, 0x5be0cd19#32⟩

/-- The round constants `K[0..63]` (R193). -/
def shaK : List U32 :=
  [0x428a2f98#32, 0x71374491#32, 0xb5c0fbcf#32, 0xe9b5dba5#32, 0x3956c25b#32, 0x59f111f1#32, 0x923f82a4#32, 0xab1c5ed5#32,
   0xd807aa98#32, 0x12835b01#32, 0x243185be#32, 0x550c7dc3#32, 0x72be5d74#32, 0x80deb1fe#32, 0x9bdc06a7#32, 0xc19bf174#32] ++
  [0xe49b69c1#32, 0xefbe4786#32, 0x0fc19dc6#32, 0x240ca1cc#32, 0x2de92c6f#32, 0x4a7484aa#32, 0x5cb0a9dc#32, 0x76f988da#32,
   0x983e5152#32, 0xa831c66d#32, 0xb00327c8#32, 0xbf597fc7#32, 0xc6e00bf3#32, 0xd5a79147#32, 0x06ca6351#32, 0x14292967#32] ++
  [0x27b70a85#32, 0x2e1b2138#32, 0x4d2c6dfc#32, 0x53380d13#32, 0x650a7354#32, 0x766a0abb#32, 0x81c2c92e#32, 0x92722c85#32,
   0xa2bfe8a1#32, 0xa81a664b#32, 0xc24b8b70#32, 0xc76c51a3#32, 0xd192e819#32, 0xd6990624#32, 0xf40e3585#32, 0x106aa070#32] ++
  [0x19a4c116#32, 0x1e376c08#32, 0x2748774c#32, 0x34b0bcb5#32, 0x391c0cb3#32, 0x4ed8aa4a#32, 0x5b9cca4f#32, 0x682e6ff3#32,
   0x748f82ee#32, 0x78a5636f#32, 0x84c87814#32, 0x8cc70208#32, 0x90befffa#32, 0xa4506ceb#32, 0xbef9a3f7#32, 0xc67178f2#32]

/-- `ROTR(x, r)` (R194). -/
def rotr (x : U32) (r : Nat) : U32 := (x >>> r) ||| (x <<< (32 - r))

/-- `Ch(x, y, z)` (R194). -/
def ch (x y z : U32) : U32 := (x &&& y) ^^^ (~~~x &&& z)

/-- `Maj(x, y, z)` (R194). -/
def maj (x y z : U32) : U32 := (x &&& y) ^^^ (x &&& z) ^^^ (y &&& z)

/-- `BSIG0(x)` (R194). -/
def bsig0 (x : U32) : U32 := rotr x 2 ^^^ rotr x 13 ^^^ rotr x 22

/-- `BSIG1(x)` (R194). -/
def bsig1 (x : U32) : U32 := rotr x 6 ^^^ rotr x 11 ^^^ rotr x 25

/-- `SSIG0(x)` (R194). -/
def ssig0 (x : U32) : U32 := rotr x 7 ^^^ rotr x 18 ^^^ (x >>> 3)

/-- `SSIG1(x)` (R194). -/
def ssig1 (x : U32) : U32 := rotr x 17 ^^^ rotr x 19 ^^^ (x >>> 10)

/-- The next word of the schedule from the words so far, the latest first: `W[t-2]` is entry 1 (R195). -/
def nextW (latest : List U32) : U32 :=
  ssig1 (latest.getD 1 0#32) + latest.getD 6 0#32 + ssig0 (latest.getD 14 0#32) + latest.getD 15 0#32

/-- `k` more words of the schedule, the latest first (R195). -/
def extendW : (k : Nat) → List U32 → List U32
  | 0, latest => latest
  | k + 1, latest => extendW k (nextW latest :: latest)

/-- The 16 words of a 64-byte block (R195). -/
def blockWords (block : List Byte) : List U32 :=
  (List.range 16).map fun t => wordOfBytes ((block.drop (4 * t)).take 4)

/-- The message schedule `W[0..63]` of a 64-byte block (R195). -/
def scheduleW (block : List Byte) : List U32 := (extendW 48 (blockWords block).reverse).reverse

/-- One round of the compression with its constant and its schedule word (R196). -/
def shaRound (v : HashState) (kw : U32 × U32) : HashState :=
  let t1 := v.h + bsig1 v.e + ch v.e v.f v.g + kw.1 + kw.2
  let t2 := bsig0 v.a + maj v.a v.b v.c
  ⟨t1 + t2, v.a, v.b, v.c, v.d + t1, v.e, v.f, v.g⟩

/-- Wordwise sum modulo 2^32 (R196). -/
def HashState.add (x y : HashState) : HashState :=
  ⟨x.a + y.a, x.b + y.b, x.c + y.c, x.d + y.d, x.e + y.e, x.f + y.f, x.g + y.g, x.h + y.h⟩

/-- Compression of one 64-byte block (R196). -/
def compress (v : HashState) (block : List Byte) : HashState :=
  v.add ((shaK.zip (scheduleW block)).foldl shaRound v)

/-- Compression of the first `k` blocks of a message, in order (R191 step 3). -/
def compressBlocks : (k : Nat) → List Byte → HashState → HashState
  | 0, _, v => v
  | k + 1, msg, v => compressBlocks k (msg.drop 64) (compress v (msg.take 64))

/-- Padding: `0x80`, the smallest number of zero bytes that fills the last block, and the bit length in 8 big-endian bytes
(R191 step 1). -/
def shaPad (msg : List Byte) : List Byte :=
  let zeros := (119 - msg.length % 64) % 64
  let bits := BitVec.ofNat 64 (8 * msg.length)
  msg ++ 0x80#8 :: List.replicate zeros 0#8 ++ (List.range 8).map fun k => bits.extractLsb' (56 - 8 * k) 8

/-- The digest of a state: its words big-endian, `H0` first (R191 step 4). -/
def digestBytes (v : HashState) : List Byte :=
  bytes4 v.a ++ bytes4 v.b ++ bytes4 v.c ++ bytes4 v.d ++ bytes4 v.e ++ bytes4 v.f ++ bytes4 v.g ++ bytes4 v.h

/-- `sha256(M)` (R191). -/
def sha256 (msg : List Byte) : List Byte :=
  let padded := shaPad msg
  digestBytes (compressBlocks (padded.length / 64) padded shaInit)

/-- `tagged_hash(tag, msg)` (R197). -/
def taggedHash (tag msg : List Byte) : List Byte := sha256 (sha256 tag ++ sha256 tag ++ msg)

end Sys2Proof.Machine
end

