-- ==== Sys2Proof/Machine/Scheme.lean ====
section
/-! DEFINITION. The pure functions of the scheme: the scalar of a tagged hash, `key_gen` (45_keygen.md R220), `sign`
(46_sign.md R230) and `verify` (47_verify.md R240). The variant is fixed by the algorithm text (00_scope.md R2). -/

namespace Sys2Proof.Machine

/-- The tag string TAG selects (R197, R198). -/
def tagBytes : Tag → List Byte
  | .derive => Config.tagDerive
  | .challenge => Config.tagChallenge

/-- `int(tagged_hash(tag, bytes32(v0) || bytes32(v1) || ...))` (R197, R198). -/
def hashWords (tag : Tag) (words : List U256) : U256 :=
  intOfBytes (taggedHash (tagBytes tag) (words.flatMap bytes32))

/-- The tagged hash reduced modulo n: the nonce and the challenge (R230 steps 3 and 6, R240 step 3). -/
def hashScalar (tag : Tag) (words : List U256) : Nat := (hashWords tag words).toNat % Config.groupOrder

/-- A secret in `[1, n-1]`, else INVALID_SECRET_KEY (R220, R230 step 1). -/
def checkSecret (d : U256) : Except CmdError Unit :=
  if d.toNat = 0 ∨ Config.groupOrder ≤ d.toNat then .error .invalidSecretKey else .ok ()

/-- The coordinates of an affine point, else INFINITY (R157, R183, R220, R230). -/
def coordinates : Point → Except CmdError (U256 × U256)
  | .inf => .error .infinity
  | .aff x y => .ok (x, y)

/-- `key_gen(d)` (R220). -/
def keyGen (d : U256) : Except CmdError U256 := do
  checkSecret d
  let pub ← coordinates (← pointMul basePoint d)
  return pub.1

/-- R230 step 3: a derived nonce of 0 is the error ZERO_NONCE, not retried. -/
def checkNonce (k0 : Nat) : Except CmdError Unit := if k0 = 0 then .error .zeroNonce else .ok ()

/-- The nonce normalised so that the committed point has a quadratic-residue y (R230 step 5). -/
def normalNonce (k0 : Nat) (yR : U256) : Nat :=
  if isQuad yR.toNat then k0 else fsub Config.groupOrder 0 k0

/-- `sign(m, d0)`: the seven steps of R230, literally. -/
def sign (m d0 : U256) : Except CmdError (U256 × U256) := do
  checkSecret d0
  let pub ← coordinates (← pointMul basePoint d0)
  let k0 := hashScalar .derive [d0, m]
  checkNonce k0
  let commit ← coordinates (← pointMul basePoint (BitVec.ofNat 256 k0))
  let k := normalNonce k0 commit.2
  let e := hashScalar .challenge [commit.1, pub.1, m]
  let s := fadd Config.groupOrder k (fmul Config.groupOrder e d0.toNat)
  return (commit.1, BitVec.ofNat 256 s)

/-- `s·G + (n-e)·P` (R240 step 4). -/
def verifyPoint (pub : Point) (s : U256) (e : Nat) : Except CmdError Point := do
  let a ← pointMul basePoint s
  let b ← pointMul pub (BitVec.ofNat 256 (Config.groupOrder - e))
  pointAdd a b

/-- `verify(m, pk, r, s)`: every failure is the one answer false (R240, R243). -/
def verify (m pk r s : U256) : Bool :=
  match liftX pk with
  | .error _ => false
  | .ok pub =>
    if Config.fieldPrime ≤ r.toNat ∨ Config.groupOrder ≤ s.toNat then false
    else
      match verifyPoint pub s (hashScalar .challenge [r, pk, m]) with
      | .ok (.aff x y) => isQuad y.toNat && x == r
      | .ok .inf => false
      | .error _ => false

end Sys2Proof.Machine
end

