-- ==== Sys2Proof/Machine/Operands.lean ====
section
/-! DEFINITION. How commands read their operands: every form of 30_encoding.md R92 with the range check its rule demands
(41_field_arithmetic.md R120). -/

namespace Sys2Proof.Machine

/-- An F operand that must be below the modulus, else OPERAND_RANGE (R120). -/
def operandBelow (m : Modulus) (v : U256) : Except CmdError Nat :=
  if modulusOf m ≤ v.toNat then .error .operandRange else .ok v.toNat

/-- The message of THASH: `F[ra]` to `F[ra+cnt-1]`, lowest number first (R198). A legal command never runs past `F15`, so
the register number never wraps. -/
def messageRegs (s : State) (ra : FReg) (cnt : Fin 16) : List U256 :=
  (List.range cnt.val).map fun k => s.readF (Fin.ofNat 16 (ra.val + k))

/-- A 256-bit result: every result of a rule is below p or below n, so nothing is cut (R127). -/
def result (v : Nat) : U256 := BitVec.ofNat 256 v

end Sys2Proof.Machine
end

