-- ==== Sys2Proof/Machine/Flags.lean ====
section
/-! DEFINITION. The values the flag T takes (10_state.md R34) and the STATUS word (R36). -/

namespace Sys2Proof.Machine

/-- T after FEQ: all 256 bits are compared, nothing is reduced (R253). -/
def flagEqual (a b : U256) : Bool := a == b

/-- T after FISQ, on a value below p (R134). -/
def flagQuad (v : Nat) : Bool := isQuad v

/-- T after PISINF: 1 for infinity, 0 for an affine point (R158). -/
def flagInf : Point → Bool
  | .inf => true
  | .aff _ _ => false

/-- STATUS: BUSY bit 0, DONE bit 1, ERR bit 2, T bit 3, ERRCODE bits 15:8, every other bit 0 (R36). -/
def statusWord (s : State) : U32 :=
  0#16 ++ s.errcode ++ 0#4 ++ BitVec.ofBool s.t ++ BitVec.ofBool s.err ++ BitVec.ofBool s.done ++ BitVec.ofBool s.busy

/-- INFO of a point register: bit 0 is 1 for infinity (R61, R67). -/
def infoWord (q : Point) : U32 := (BitVec.ofBool (flagInf q)).setWidth 32

end Sys2Proof.Machine
end

