-- ==== Sys2Proof/Machine/Bus.lean ====
section
/-! DEFINITION. The register window as the host sees it: the map (20_memory.md R61), the accesses answered ERROR (R65), reads
(R62), writes (R63), and the step the host takes when the bus delivers an access (R72, R78). -/

namespace Sys2Proof.Machine

/-- A mapped location of the window (R61). -/
inductive Loc where
  /-- CMD, read-write. -/
  | cmd
  /-- STATUS, read-only. -/
  | status
  /-- CTRL, write-only: a read gives 0. -/
  | ctrl
  /-- Word j of `F[i]`, read-write. -/
  | fWord (i : FReg) (j : WordIdx)
  /-- X word j of `P[k]`, read-only. -/
  | pX (k : PReg) (j : WordIdx)
  /-- Y word j of `P[k]`, read-only. -/
  | pY (k : PReg) (j : WordIdx)
  /-- INFO of `P[k]`, read-only. -/
  | pInfo (k : PReg)
deriving DecidableEq, Repr

/-- The location of P register k at byte `m` of its 128 bytes (R61). -/
def locatePoint (k : PReg) (m : Nat) : Option Loc :=
  if m < 0x20 then some (.pX k (Fin.ofNat 8 (m / 4)))
  else if m < 0x40 then some (.pY k (Fin.ofNat 8 ((m - 0x20) / 4)))
  else if m < 0x44 then some (.pInfo k)
  else none

/-- The map of R61: the location whose 4 bytes hold an offset, none where the offset is unmapped. -/
def locate (off : BitVec 12) : Option Loc :=
  let o := off.toNat
  if o < 0x004 then some .cmd
  else if o < 0x008 then some .status
  else if o < 0x00C then some .ctrl
  else if o < 0x400 then none
  else if o < 0x600 then some (.fWord (Fin.ofNat 16 ((o - 0x400) / 0x20)) (Fin.ofNat 8 ((o - 0x400) % 0x20 / 4)))
  else if o < 0x800 then none
  else if o < 0xA00 then locatePoint (Fin.ofNat 4 ((o - 0x800) / 0x80)) ((o - 0x800) % 0x80)
  else none

/-- The offset of a location (R61). -/
def offsetOf : Loc → BitVec 12
  | .cmd => 0x000#12
  | .status => 0x004#12
  | .ctrl => 0x008#12
  | .fWord i j => BitVec.ofNat 12 (0x400 + 0x20 * i.val + 4 * j.val)
  | .pX k j => BitVec.ofNat 12 (0x800 + 0x80 * k.val + 4 * j.val)
  | .pY k j => BitVec.ofNat 12 (0x820 + 0x80 * k.val + 4 * j.val)
  | .pInfo k => BitVec.ofNat 12 (0x840 + 0x80 * k.val)

/-- The offset of an access. -/
def accessOffset : Access → BitVec 12
  | .read off _ => off
  | .write off _ _ => off

/-- The width of an access in bytes. -/
def accessWidth : Access → Nat
  | .read _ width => width
  | .write _ width _ => width

/-- Locations a host cannot write (R61, R65 case 4). -/
def readOnly : Loc → Bool
  | .cmd => false
  | .status => true
  | .ctrl => false
  | .fWord _ _ => false
  | .pX _ _ => true
  | .pY _ _ => true
  | .pInfo _ => true

/-- R65 cases 4, 6 and 7: the writes that are answered ERROR at a mapped location. -/
def writeRefused (s : State) (loc : Loc) (v : U32) : Bool :=
  readOnly loc                                                 -- case 4
  || (loc == .cmd && s.err)                                    -- case 6
  || (loc == .ctrl && v.extractLsb' 2 30 != 0#30)              -- case 7

/-- The complete list of accesses answered ERROR (R65). -/
def accessRefused (s : State) (a : Access) : Bool :=
  accessWidth a != 4                                           -- case 1
  || (accessOffset a).toNat % 4 != 0                           -- case 2
  || (match locate (accessOffset a) with
      | none => true                                           -- case 3
      | some loc =>
        match a with
        | .read _ _ => s.busy && loc != .status                -- case 5
        | .write _ _ v => s.busy || writeRefused s loc v)      -- cases 5, 4, 6, 7

/-- The X coordinate the window shows: 0 for infinity (R67). -/
def windowX : Point → U256
  | .inf => 0#256
  | .aff x _ => x

/-- The Y coordinate the window shows: 0 for infinity (R67). -/
def windowY : Point → U256
  | .inf => 0#256
  | .aff _ y => y

/-- The value of a read answered OKAY (R62, R66, R67; CTRL reads 0, R37). -/
def readLoc (s : State) : Loc → U32
  | .cmd => s.cmdreg
  | .status => statusWord s
  | .ctrl => 0#32
  | .fWord i j => getWord (s.readF i) j
  | .pX k j => getWord (windowX (s.readP k)) j
  | .pY k j => getWord (windowY (s.readP k)) j
  | .pInfo k => infoWord (s.readP k)

/-- The effect of a write to CTRL: SRST wins over CLRERR, and a write of 0 does nothing (R37). -/
def writeCtrl (s : State) (v : U32) : State :=
  if v.getLsbD 1 then s.resetBlock else if v.getLsbD 0 then s.clearError else s

/-- The effect of a write answered OKAY (R63). The read-only locations are never written. -/
def writeLoc (s : State) (loc : Loc) (v : U32) : State :=
  match loc with
  | .cmd => s.accept v
  | .ctrl => writeCtrl s v
  | .fWord i j => s.writeF i (setWord (s.readF i) j v)
  | .status => s
  | .pX _ _ => s
  | .pY _ _ => s
  | .pInfo _ => s

/-- The answer ERROR: no architectural state changes; the data of a read is a free value (R62, R63, assumption log 3). -/
def answerError (s : State) (a : Access) : State :=
  match a with
  | .read _ _ => { s with response := some (.readError (Config.errorReadData s.freeReads)), freeReads := s.freeReads + 1 }
  | .write _ _ _ => { s with response := some .writeError }

/-- The answer OKAY at a mapped location (R62, R63). -/
def answerOkay (s : State) (loc : Loc) (a : Access) : State :=
  match a with
  | .read _ _ => { s with response := some (.readOkay (readLoc s loc)) }
  | .write _ _ v => { writeLoc s loc v with response := some .writeOkay }

/-- The host's step: the bus delivers one access, wholly before the next (R72, R78). -/
def hostStep (s : State) (a : Access) : State :=
  if accessRefused s a then answerError s a
  else
    match locate (accessOffset a) with
    | none => answerError s a
    | some loc => answerOkay s loc a

/-- The offset of a bus address in this block's window, none for an address outside it: what lies there belongs to the
platform and never reaches the block (R60). -/
def windowOffset (addr : Nat) : Option (BitVec 12) :=
  if Config.base ≤ addr ∧ addr < Config.base + Config.windowBytes then some (BitVec.ofNat 12 (addr - Config.base)) else none

/-- `MemRead(addr, width)` on the bus, as the block sees it (R62). -/
def memRead (addr width : Nat) : Option Access := (windowOffset addr).map fun off => .read off width

/-- `MemWrite(addr, width, v)` on the bus, as the block sees it (R63). -/
def memWrite (addr width : Nat) (v : U32) : Option Access := (windowOffset addr).map fun off => .write off width v

/-- The eight word writes that put a value into `F[i]`, word 0 first (R66, R70, R294 step 2). -/
def loadWrites (i : FReg) (v : U256) : List Access :=
  (List.finRange 8).map fun j => .write (offsetOf (.fWord i j)) 4 (getWord v j)

end Sys2Proof.Machine
end

