-- ==== Sys2Proof/Machine/CurvePoint.lean ====
section
/-! DEFINITION. The CurvePoint commands (42_curve_point.md R153 to R162). -/

namespace Sys2Proof.Machine

/-- `P[rd] <- Inf` (R153). -/
def execPinf (rd : PReg) (s : State) : Host.Outcome State Fault Refusal := finish s (.ok (s.writeP rd .inf))

/-- `P[rd] <- G` (R154). -/
def execPldg (rd : PReg) (s : State) : Host.Outcome State Fault Refusal := finish s (.ok (s.writeP rd basePoint))

/-- `P[rd] <- P[ra]` (R155). -/
def execPmov (rd ra : PReg) (s : State) : Host.Outcome State Fault Refusal :=
  finish s (.ok (s.writeP rd (s.readP ra)))

/-- PSET: OPERAND_RANGE before NOT_ON_CURVE; either root is accepted (R156). -/
def execPset (rd : PReg) (ra rb : FReg) (s : State) : Host.Outcome State Fault Refusal :=
  finish s do
    let x ← operandBelow .p (s.readF ra)
    let y ← operandBelow .p (s.readF rb)
    if onCurve x y then return s.writeP rd (.aff (s.readF ra) (s.readF rb)) else throw .notOnCurve

/-- PGETY: `F[rd] <- y`, INFINITY for the point at infinity (R157). -/
def execPgety (rd : FReg) (ra : PReg) (s : State) : Host.Outcome State Fault Refusal :=
  finish s do
    let xy ← coordinates (s.readP ra)
    return s.writeF rd xy.2

/-- `T <- (P[ra] = Inf)` (R158). -/
def execPisinf (ra : PReg) (s : State) : Host.Outcome State Fault Refusal :=
  finish s (.ok (s.setT (flagInf (s.readP ra))))

/-- `P[rd] <- r` where a point function answers r; its failure is the command's (R159, R161, R162, R182). -/
def storePoint (rd : PReg) (r : Except CmdError Point) (s : State) : Except CmdError State := do
  let q ← r
  return s.writeP rd q

/-- PADD: the full group law (R159). -/
def execPadd (rd ra rb : PReg) (s : State) : Host.Outcome State Fault Refusal :=
  finish s (storePoint rd (pointAdd (s.readP ra) (s.readP rb)) s)

/-- PDBL (R161). -/
def execPdbl (rd ra : PReg) (s : State) : Host.Outcome State Fault Refusal :=
  finish s (storePoint rd (pointDouble (s.readP ra)) s)

/-- PMUL: any scalar, not reduced (R162). -/
def execPmul (rd ra : PReg) (rb : FReg) (s : State) : Host.Outcome State Fault Refusal :=
  finish s (storePoint rd (pointMul (s.readP ra) (s.readF rb)) s)

end Sys2Proof.Machine
end

