-- ==== Sys2Proof/Machine/FieldArithmetic.lean ====
section
/-! DEFINITION. The FieldArithmetic commands (41_field_arithmetic.md R129 to R136). -/

namespace Sys2Proof.Machine

/-- The shape of R129 to R131: both operands below the modulus, else OPERAND_RANGE; then `F[rd] <- op(a, b)`. -/
def binaryField (op : Nat → Nat → Nat → Nat) (m : Modulus) (rd ra rb : FReg) (s : State) : Except CmdError State := do
  let a ← operandBelow m (s.readF ra)
  let b ← operandBelow m (s.readF rb)
  return s.writeF rd (result (op (modulusOf m) a b))

/-- FADD (R129). -/
def execFadd (m : Modulus) (rd ra rb : FReg) (s : State) : Host.Outcome State Fault Refusal :=
  finish s (binaryField fadd m rd ra rb s)

/-- FSUB: `F[ra]` minus `F[rb]` (R130). -/
def execFsub (m : Modulus) (rd ra rb : FReg) (s : State) : Host.Outcome State Fault Refusal :=
  finish s (binaryField fsub m rd ra rb s)

/-- FMUL (R131). -/
def execFmul (m : Modulus) (rd ra rb : FReg) (s : State) : Host.Outcome State Fault Refusal :=
  finish s (binaryField fmul m rd ra rb s)

/-- FRED: `F[rd] <- F[ra] mod m`, any operand (R132). -/
def execFred (m : Modulus) (rd ra : FReg) (s : State) : Host.Outcome State Fault Refusal :=
  finish s (.ok (s.writeF rd (result ((s.readF ra).toNat % modulusOf m))))

/-- FINV: OPERAND_RANGE before INV_ZERO (R133, R265). -/
def execFinv (rd ra : FReg) (s : State) : Host.Outcome State Fault Refusal :=
  finish s do
    let a ← operandBelow .p (s.readF ra)
    let v ← finv a
    return s.writeF rd (result v)

/-- FEXP: the base below p, any exponent (R135). -/
def execFexp (rd ra rb : FReg) (s : State) : Host.Outcome State Fault Refusal :=
  finish s do
    let a ← operandBelow .p (s.readF ra)
    return s.writeF rd (result (fexp a (s.readF rb).toNat))

/-- FSQRT: OPERAND_RANGE before NO_SQRT (R136, R265). -/
def execFsqrt (rd ra : FReg) (s : State) : Host.Outcome State Fault Refusal :=
  finish s do
    let c ← operandBelow .p (s.readF ra)
    let y ← fsqrt c
    return s.writeF rd (result y)

/-- FISQ: `T <- is_quad(F[ra])` (R134). -/
def execFisq (ra : FReg) (s : State) : Host.Outcome State Fault Refusal :=
  finish s do
    let v ← operandBelow .p (s.readF ra)
    return s.setT (flagQuad v)

end Sys2Proof.Machine
end

