-- ==== Sys2Proof/Machine/Signature.lean ====
section
/-! DEFINITION. The macro commands KEYGEN (45_keygen.md R221), SIGN (46_sign.md R231) and VERIFY (47_verify.md R241). None
writes a P register or leaves an intermediate value (10_state.md R47). -/

namespace Sys2Proof.Machine

/-- KEYGEN: `F[rd] <- key_gen(F[ra])` (R221). -/
def execKeygen (rd ra : FReg) (s : State) : Host.Outcome State Fault Refusal :=
  finish s do
    let pk ← keyGen (s.readF ra)
    return s.writeF rd pk

/-- SIGN: `F[rd] <- r; F[rc] <- s` of `sign(F[ra], F[rb])` (R231). A term with `rd = rc` is no legal command and fails as
R96 case 7 says; `step` never passes one (assumption log 9). -/
def execSign (rd rc ra rb : FReg) (s : State) : Host.Outcome State Fault Refusal :=
  finish s do
    if destinationsDiffer rd rc then
      let sig ← sign (s.readF ra) (s.readF rb)
      return (s.writeF rd sig.1).writeF rc sig.2
    else throw .illegalCmd

/-- VERIFY: `T <- verify(F[ra], F[rb], F[rc], F[rd])`, no error that depends on data (R241, R243). -/
def execVerify (ra rb rc rd : FReg) (s : State) : Host.Outcome State Fault Refusal :=
  finish s (.ok (s.setT (verify (s.readF ra) (s.readF rb) (s.readF rc) (s.readF rd))))

end Sys2Proof.Machine
end

