-- ==== Sys2Proof/Machine/TaggedHash.lean ====
section
/-! DEFINITION. The TaggedHash command (44_tagged_hash.md R198). -/

namespace Sys2Proof.Machine

/-- THASH: the tagged hash of `cnt` consecutive registers, not reduced. A term past `F15` is no legal command and fails as
R96 case 6 says; `step` never passes one (assumption log 9). -/
def execThash (tag : Tag) (rd ra : FReg) (cnt : Fin 16) (s : State) : Host.Outcome State Fault Refusal :=
  finish s (if hashInRange ra cnt then .ok (s.writeF rd (hashWords tag (messageRegs s ra cnt))) else .error .illegalCmd)

end Sys2Proof.Machine
end

