-- ==== Sys2Proof/Machine/Utility.lean ====
section
/-! DEFINITION. The utility commands (48_utility.md R250 to R253). -/

namespace Sys2Proof.Machine

/-- NOP: writes nothing (R250). -/
def execNop (s : State) : Host.Outcome State Fault Refusal := finish s (.ok s)

/-- `F[rd] <- F[ra]`, no range checked (R251). -/
def execFmov (rd ra : FReg) (s : State) : Host.Outcome State Fault Refusal :=
  finish s (.ok (s.writeF rd (s.readF ra)))

/-- `F[rd] <- (T = 1) ? F[ra] : F[rb]` (R252). -/
def execFsel (rd ra rb : FReg) (s : State) : Host.Outcome State Fault Refusal :=
  finish s (.ok (s.writeF rd (if s.t then s.readF ra else s.readF rb)))

/-- `T <- (F[ra] = F[rb])` (R253). -/
def execFeq (ra rb : FReg) (s : State) : Host.Outcome State Fault Refusal :=
  finish s (.ok (s.setT (flagEqual (s.readF ra) (s.readF rb))))

end Sys2Proof.Machine
end

