-- ==== Sys2Proof/Machine/XOnly.lean ====
section
/-! DEFINITION. The Encoding commands, x-only points (43_encoding_xonly.md R182, R183). -/

namespace Sys2Proof.Machine

/-- PLIFT: decode an x-coordinate, or POINT_DECODE (R182). -/
def execPlift (rd : PReg) (ra : FReg) (s : State) : Host.Outcome State Fault Refusal :=
  finish s (storePoint rd (liftX (s.readF ra)) s)

/-- PGETX: `F[rd] <- x`, INFINITY for the point at infinity (R183). -/
def execPgetx (rd : FReg) (ra : PReg) (s : State) : Host.Outcome State Fault Refusal :=
  finish s do
    let xy ← coordinates (s.readP ra)
    return s.writeF rd xy.1

end Sys2Proof.Machine
end

