-- ==== Sys2Proof/Machine/Dispatch.lean ====
section
/-! DEFINITION. The completion of each command (30_encoding.md R91, R95), one arm per constructor of Instr. -/

namespace Sys2Proof.Machine

def exec (i : Instr) (s : State) : Host.Outcome State Fault Refusal :=
  match i with
  | .nop => Sys2Proof.Machine.execNop s
  | .fmov rd ra => Sys2Proof.Machine.execFmov rd ra s
  | .fsel rd ra rb => Sys2Proof.Machine.execFsel rd ra rb s
  | .feq ra rb => Sys2Proof.Machine.execFeq ra rb s
  | .fadd m rd ra rb => Sys2Proof.Machine.execFadd m rd ra rb s
  | .fsub m rd ra rb => Sys2Proof.Machine.execFsub m rd ra rb s
  | .fmul m rd ra rb => Sys2Proof.Machine.execFmul m rd ra rb s
  | .fred m rd ra => Sys2Proof.Machine.execFred m rd ra s
  | .finv rd ra => Sys2Proof.Machine.execFinv rd ra s
  | .fexp rd ra rb => Sys2Proof.Machine.execFexp rd ra rb s
  | .fsqrt rd ra => Sys2Proof.Machine.execFsqrt rd ra s
  | .fisq ra => Sys2Proof.Machine.execFisq ra s
  | .pinf rd => Sys2Proof.Machine.execPinf rd s
  | .pldg rd => Sys2Proof.Machine.execPldg rd s
  | .pmov rd ra => Sys2Proof.Machine.execPmov rd ra s
  | .pset rd ra rb => Sys2Proof.Machine.execPset rd ra rb s
  | .pgetx rd ra => Sys2Proof.Machine.execPgetx rd ra s
  | .pgety rd ra => Sys2Proof.Machine.execPgety rd ra s
  | .pisinf ra => Sys2Proof.Machine.execPisinf ra s
  | .plift rd ra => Sys2Proof.Machine.execPlift rd ra s
  | .padd rd ra rb => Sys2Proof.Machine.execPadd rd ra rb s
  | .pdbl rd ra => Sys2Proof.Machine.execPdbl rd ra s
  | .pmul rd ra rb => Sys2Proof.Machine.execPmul rd ra rb s
  | .thash tag rd ra cnt => Sys2Proof.Machine.execThash tag rd ra cnt s
  | .keygen rd ra => Sys2Proof.Machine.execKeygen rd ra s
  | .sign rd rc ra rb => Sys2Proof.Machine.execSign rd rc ra rb s
  | .verify ra rb rc rd => Sys2Proof.Machine.execVerify ra rb rc rd s

end Sys2Proof.Machine
end

