-- ==== Sys2Proof/Machine/Engine.lean ====
section
/-! DEFINITION. The engine's completion step (30_encoding.md R91), the effect of each event (20_memory.md R72, R78), and the
acceptance of a command that `withFetchWord` stands for. -/

namespace Sys2Proof.Machine

/-- The completion step of a command in flight (R91): the word latched in CMDREG is decoded (R75), an illegal word takes
the command error ILLEGAL_CMD and reads no register (R96, R265), a legal one runs its command's rule. -/
def completion (s : State) : Host.Outcome State Fault Refusal :=
  match decode s.cmdreg with
  | .ok i => exec i s
  | .error _ => finish s (.error .illegalCmd)

/-- The engine's turn: its only step is the completion step, enabled exactly when BUSY = 1 (R78). An idle block waits
(R277, assumption log 5). -/
def engineTurn (s : State) : Host.Outcome State Fault Refusal :=
  if s.busy then completion s else .next s

/-- What one event does (R72, R78, R290). -/
def handle (e : Event) (s : State) : Host.Outcome State Fault Refusal :=
  match e with
  | .access a => .next (hostStep s a)
  | .engine => engineTurn s
  | .resetInput => .next s.resetBlock

/-- The state with the event at the head of the agenda taken off it. -/
def State.tailAgenda (s : State) : State := { s with agenda := s.agenda.tail }

/-- The state right after an accepted CMD write of `w` (R68) with the engine to move next. -/
def State.inFlight (s : State) (w : U32) : State :=
  { s.accept w with agenda := .engine :: s.agenda }

end Sys2Proof.Machine
end

