-- ==== Sys2Proof/Machine/Step.lean ====
section
/-! DEFINITION. One step of the machine (20_memory.md R72, R78): the next event of the agenda; with no event left, the
engine's turn. -/

namespace Sys2Proof.Machine

/-- One step: the head of the agenda is taken off and has its effect. With an empty agenda the engine moves, so a command in
flight always completes (70_reset_and_hazards.md R300) and an idle block stays as it is (R277). -/
def step (s : State) : Host.Outcome State Fault Refusal :=
  match s.agenda with
  | [] => engineTurn s
  | e :: _ => handle e s.tailAgenda

/-- `s` with the command of the table's `nbits` bits `w` where the next step finds it: the machine right after the host's
accepted write of that word to CMD (R68), the engine to move next (assumption log 6). -/
def State.withFetchWord (s : State) (nbits w : Nat) : State := s.inFlight (BitVec.ofNat 32 (w % 2 ^ nbits))

end Sys2Proof.Machine
end

