-- ==== Sys2Proof/Safety.lean ====
section
/-! DEFINITION. The terms claims are stated in: which state is legal (10_state.md R33, R36; 60_exceptions.md R270), what a
command reads, writes and raises (30_encoding.md R92, R93, R95; R261), and when two states hold the same block. -/

namespace Sys2Proof.Machine

/-- The status bits are in one of the four reachable combinations of R270: idle after reset, busy, done, done with one of the
codes of R261. -/
def statusOk (s : State) : Bool :=
  (!s.busy && !s.done && !s.err && s.errcode == 0#8)
  || (s.busy && !s.done && !s.err && s.errcode == 0#8)
  || (!s.busy && s.done && !s.err && s.errcode == 0#8)
  || (!s.busy && s.done && s.err && decide (1 ≤ s.errcode.toNat) && decide (s.errcode.toNat ≤ 9))

/-- R33: every P register holds a Point: infinity, or coordinates below p that satisfy the curve equation. -/
def PointsOk (s : State) : Prop := ∀ k : PReg, (s.readP k).valid = true

/-- Every piece of architectural state of R30 is the same; the model's own fields may differ. -/
structure SameBlock (before after : State) : Prop where
  f : after.f = before.f
  p : after.p = before.p
  t : after.t = before.t
  cmdreg : after.cmdreg = before.cmdreg
  busy : after.busy = before.busy
  done : after.done = before.done
  err : after.err = before.err
  errcode : after.errcode = before.errcode

/-- The values of R48. -/
structure ResetValues (after : State) : Prop where
  f : ∀ r : FReg, after.readF r = 0#256
  p : ∀ k : PReg, after.readP k = .inf
  t : after.t = false
  cmdreg : after.cmdreg = 0x00000000#32
  busy : after.busy = false
  done : after.done = false
  err : after.err = false
  errcode : after.errcode = 0x00#8

/-- The destination F registers of a command: the column "writes" of R95. -/
def writesF : Instr → List FReg
  | .nop => []
  | .fmov rd _ => [rd]
  | .fsel rd _ _ => [rd]
  | .feq _ _ => []
  | .fadd _ rd _ _ => [rd]
  | .fsub _ rd _ _ => [rd]
  | .fmul _ rd _ _ => [rd]
  | .fred _ rd _ => [rd]
  | .finv rd _ => [rd]
  | .fexp rd _ _ => [rd]
  | .fsqrt rd _ => [rd]
  | .fisq _ => []
  | .pinf _ => []
  | .pldg _ => []
  | .pmov _ _ => []
  | .pset _ _ _ => []
  | .pgetx rd _ => [rd]
  | .pgety rd _ => [rd]
  | .pisinf _ => []
  | .plift _ _ => []
  | .padd _ _ _ => []
  | .pdbl _ _ => []
  | .pmul _ _ _ => []
  | .thash _ rd _ _ => [rd]
  | .keygen rd _ => [rd]
  | .sign rd rc _ _ => [rd, rc]
  | .verify _ _ _ _ => []

/-- The destination P register of a command: the column "writes" of R95. -/
def writesP : Instr → List PReg
  | .pinf rd => [rd]
  | .pldg rd => [rd]
  | .pmov rd _ => [rd]
  | .pset rd _ _ => [rd]
  | .plift rd _ => [rd]
  | .padd rd _ _ => [rd]
  | .pdbl rd _ => [rd]
  | .pmul rd _ _ => [rd]
  | _ => []

/-- The four commands that write T (R34). -/
def writesT : Instr → Bool
  | .feq _ _ => true
  | .fisq _ => true
  | .pisinf _ => true
  | .verify _ _ _ _ => true
  | _ => false

/-- The F registers a command reads (R93). -/
def readsF : Instr → List FReg
  | .nop => []
  | .fmov _ ra => [ra]
  | .fsel _ ra rb => [ra, rb]
  | .feq ra rb => [ra, rb]
  | .fadd _ _ ra rb => [ra, rb]
  | .fsub _ _ ra rb => [ra, rb]
  | .fmul _ _ ra rb => [ra, rb]
  | .fred _ _ ra => [ra]
  | .finv _ ra => [ra]
  | .fexp _ ra rb => [ra, rb]
  | .fsqrt _ ra => [ra]
  | .fisq ra => [ra]
  | .pinf _ => []
  | .pldg _ => []
  | .pmov _ _ => []
  | .pset _ ra rb => [ra, rb]
  | .pgetx _ _ => []
  | .pgety _ _ => []
  | .pisinf _ => []
  | .plift _ ra => [ra]
  | .padd _ _ _ => []
  | .pdbl _ _ => []
  | .pmul _ _ rb => [rb]
  | .thash _ _ ra cnt => (List.finRange 16).filter fun r => decide (ra.val ≤ r.val ∧ r.val < ra.val + cnt.val)
  | .keygen _ ra => [ra]
  | .sign _ _ ra rb => [ra, rb]
  | .verify ra rb rc rd => [ra, rb, rc, rd]

/-- The P registers a command reads (R93). -/
def readsP : Instr → List PReg
  | .pmov _ ra => [ra]
  | .pgetx _ ra => [ra]
  | .pgety _ ra => [ra]
  | .pisinf ra => [ra]
  | .padd _ ra rb => [ra, rb]
  | .pdbl _ ra => [ra]
  | .pmul _ ra _ => [ra]
  | _ => []

/-- FSEL alone reads T (R34). -/
def readsT : Instr → Bool
  | .fsel _ _ _ => true
  | _ => false

/-- The causes a legal command can record: the column "raised by" of R261, ILLEGAL_CMD apart. -/
def raises : Instr → List CmdError
  | .fadd _ _ _ _ => [.operandRange]
  | .fsub _ _ _ _ => [.operandRange]
  | .fmul _ _ _ _ => [.operandRange]
  | .finv _ _ => [.operandRange, .invZero]
  | .fexp _ _ _ => [.operandRange]
  | .fsqrt _ _ => [.operandRange, .noSqrt]
  | .fisq _ => [.operandRange]
  | .pset _ _ _ => [.operandRange, .notOnCurve]
  | .pgetx _ _ => [.infinity]
  | .pgety _ _ => [.infinity]
  | .plift _ _ => [.pointDecode]
  | .padd _ _ _ => [.invZero]
  | .pdbl _ _ => [.invZero]
  | .pmul _ _ _ => [.invZero]
  | .keygen _ _ => [.invalidSecretKey, .infinity, .invZero]
  | .sign _ _ _ _ => [.invalidSecretKey, .zeroNonce, .infinity, .invZero]
  | _ => []

/-- The k-fold sum of a point by `point_add` alone (R12, R160). -/
def sumOf (q : Point) : Nat → Except CmdError Point
  | 0 => .ok .inf
  | k + 1 => do
    let acc ← sumOf q k
    pointAdd acc q

/-- `-P`: the same x, the other y (R151). -/
def negPoint : Point → Point
  | .inf => .inf
  | .aff x y => .aff x (BitVec.ofNat 256 (fsub Config.fieldPrime 0 y.toNat))

/-- The offsets R61 lists as unmapped. -/
def UnmappedOffset (o : Nat) : Prop :=
  (0x00C ≤ o ∧ o < 0x400) ∨ (0x600 ≤ o ∧ o < 0x800) ∨ (0xA00 ≤ o ∧ o < 0x1000) ∨
  ∃ k : PReg, 0x844 + 0x80 * k.val ≤ o ∧ o < 0x880 + 0x80 * k.val

/-- The offsets of the P words and INFO words (R61). -/
def PointOffset (o : Nat) : Prop := ∃ k : PReg, 0x800 + 0x80 * k.val ≤ o ∧ o < 0x844 + 0x80 * k.val

end Sys2Proof.Machine
end

