-- ==== Sys2Proof/Certificates/Slice0/Obligations.lean ====
section
/-! DEFINITION. The statements for the provers. Each docstring says which rule of the spec the statement formalises. `R<n>`
are the spec's rules. -/

open Sys2Proof Sys2Proof.Machine

/-! ### Reset -/

/-- R48: after hardware reset (the reset input, in any state, a command in flight or not) and after a soft reset (an accepted
CTRL write with bit 1 set) every piece of state has its stated value, and STATUS reads 0. -/
def Obligations.ResetLeavesTheStatedValues : Prop :=
  (ResetValues State.reset ∧ statusWord State.reset = 0x00000000#32) ∧
  (∀ (s : State) (rest : List Event), s.agenda = .resetInput :: rest →
    ∃ t, step s = .next t ∧ ResetValues t ∧ statusWord t = 0x00000000#32) ∧
  (∀ (s : State) (v : U32), s.busy = false → v.getLsbD 1 = true → v.extractLsb' 2 30 = 0#30 →
    ResetValues (hostStep s (.write 0x008#12 4 v)) ∧ statusWord (hostStep s (.write 0x008#12 4 v)) = 0x00000000#32)

/-! ### The encoding -/

/-- R90, R95: encoding a command and decoding its word gives the command back, every operand at every value. -/
def Obligations.DecodeInvertsEncode : Prop :=
  ∀ i : Instr, i.wf = true → decode (encode i) = .ok i

/-- R90, R95: a word that decodes is the word of the command it decodes to, so no two words stand for one command and no
bit of a legal word is ignored. -/
def Obligations.EncodeInvertsDecode : Prop :=
  ∀ (w : U32) (i : Instr), decode w = .ok i → i.wf = true ∧ encode i = w

/-- R96: the words the decoder accepts are exactly the legal ones, the seven cases tested over the table of R95. -/
def Obligations.LegalWordsAreTheDecodedOnes : Prop :=
  ∀ w : U32, legal w = true ↔ ∃ i, decode w = .ok i

/-- R95: the word of a command is `op·2^24 + rd·2^20 + ra·2^16 + rb·2^12 + rc·2^8 + imm`, `op` that of its row. -/
def Obligations.CommandWordIsTheStatedSum : Prop :=
  ∀ i : Instr, ∃ row ∈ opTable, row.mnemonic = mnemonicOf i ∧ row.op = (commandOf i).op ∧
    (encode i).toNat = (commandOf i).op.toNat * 2 ^ 24 + (commandOf i).rd.toNat * 2 ^ 20 + (commandOf i).ra.toNat * 2 ^ 16 +
      (commandOf i).rb.toNat * 2 ^ 12 + (commandOf i).rc.toNat * 2 ^ 8 + (commandOf i).imm.toNat

/-- R95: the example words written out there decode to the commands they stand for. -/
def Obligations.ExampleWordsDecode : Prop :=
  decode 0x10312000#32 = .ok (.fadd .p 3 1 2) ∧ decode 0x10312001#32 = .ok (.fadd .n 3 1 2) ∧
  decode 0x2A104000#32 = .ok (.pmul 1 0 4) ∧ decode 0x30580301#32 = .ok (.thash .challenge 5 8 3) ∧
  decode 0x41201300#32 = .ok (.sign 2 3 0 1) ∧ decode 0x42304200#32 = .ok (.verify 0 4 2 3) ∧
  decode 0x00000000#32 = .ok .nop

/-! ### The engine -/

/-- R91: with a command in flight and the engine to move (its event next, or no event left), the step runs the command that
CMDREG decodes to, after taking the engine's event off the agenda. The same from the state `withFetchWord` makes. The agenda
and `withFetchWord` are the model's (assumption log 1 and 6). -/
def Obligations.StepRunsTheDecodedCommand : Prop :=
  (∀ (s : State) (i : Instr), s.busy = true → decode s.cmdreg = .ok i → s.agenda = [] → step s = exec i s) ∧
  (∀ (s : State) (i : Instr) (rest : List Event), s.busy = true → decode s.cmdreg = .ok i → s.agenda = .engine :: rest →
    step s = exec i { s with agenda := rest }) ∧
  (∀ (s : State) (i : Instr) (w : U32), decode w = .ok i →
    step (s.withFetchWord 32 w.toNat) = exec i { s with cmdreg := w, busy := true, done := false })

/-- R96: a word fails with ILLEGAL_CMD, writing nothing, if and only if it is not legal. (With no error standing before: a
standing error of the same code could not be told from a new one.) How the word comes to be in flight is the model's
(assumption log 6). -/
def Obligations.IllegalWordsFailWithIllegalCmd : Prop :=
  ∀ (s : State) (w : U32), s.err = false →
    (legal w = false ↔
      step (s.withFetchWord 32 w.toNat) =
        .next { s with cmdreg := w, err := true, errcode := 0x01#8, busy := false, done := true })

/-- R68, R91, R294: the host writes a command word to CMD of an idle block with no error standing, the engine moves, and the
command has run on the registers as they were. The agenda and the field `response` are the model's (assumption log 1 and 2). -/
def Obligations.CommandWriteThenEngineRunsTheCommand : Prop :=
  ∀ (s : State) (w : U32) (i : Instr) (rest : List Event), s.busy = false → s.err = false → decode w = .ok i →
    s.agenda = .access (.write 0x000#12 4 w) :: .engine :: rest →
    Host.Core.run Sys2Proof.core 2 s =
      exec i { s with cmdreg := w, busy := true, done := false, agenda := rest, response := some .writeOkay }

/-- R262 and the column "writes" of R95: every command gives a next state; it is either the state before with the four
status changes of the error entry and nothing else, or a completion that changes only the command's destinations. -/
def Obligations.CommandsCompleteOrFailPrecisely : Prop :=
  ∀ (i : Instr) (s : State), ∃ t, exec i s = .next t ∧
    ((∃ e : CmdError, t = { s with err := true, errcode := e.code, busy := false, done := true }) ∨
     (t.busy = false ∧ t.done = true ∧ t.err = s.err ∧ t.errcode = s.errcode ∧ t.cmdreg = s.cmdreg ∧
      t.agenda = s.agenda ∧ t.response = s.response ∧ t.freeReads = s.freeReads ∧
      (∀ r : FReg, r ∉ writesF i → t.readF r = s.readF r) ∧
      (∀ k : PReg, k ∉ writesP i → t.readP k = s.readP k) ∧
      (writesT i = false → t.t = s.t)))

/-- R261, the columns "code" and "raised by": the nine codes, and which of them a legal command can record. -/
def Obligations.ErrorCodesAreTheListedOnes : Prop :=
  (CmdError.code .illegalCmd = 0x01#8 ∧ CmdError.code .operandRange = 0x02#8 ∧ CmdError.code .invZero = 0x03#8 ∧
   CmdError.code .noSqrt = 0x04#8 ∧ CmdError.code .pointDecode = 0x05#8 ∧ CmdError.code .notOnCurve = 0x06#8 ∧
   CmdError.code .infinity = 0x07#8 ∧ CmdError.code .invalidSecretKey = 0x08#8 ∧ CmdError.code .zeroNonce = 0x09#8) ∧
  (∀ (i : Instr) (s t : State), i.wf = true → s.err = false → exec i s = .next t → t.err = true →
    ∃ e ∈ raises i, t.errcode = e.code)

/-- R93, R45: a command's effect depends on nothing but the registers it names as sources (and T, for FSEL): from two
states that agree there it fails with the same code or writes the same values. -/
def Obligations.SourcesDetermineTheEffect : Prop :=
  ∀ (i : Instr) (s s' t t' : State), s.err = false → s'.err = false →
    (∀ r ∈ readsF i, s'.readF r = s.readF r) → (∀ k ∈ readsP i, s'.readP k = s.readP k) →
    (readsT i = true → s'.t = s.t) → exec i s = .next t → exec i s' = .next t' →
    t'.err = t.err ∧ (t.err = true → t'.errcode = t.errcode) ∧
    (t.err = false → (∀ r ∈ writesF i, t'.readF r = t.readF r) ∧ (∀ k ∈ writesP i, t'.readP k = t.readP k) ∧
      (writesT i = true → t'.t = t.t))

/-- R78, R72, R45: a command in flight gives the same result whatever accesses the bus delivers before its completion: the
run through them and the completion step, and the completion step alone, end in the same state but for the host's last
answer and the count of free values. The order of events and these two fields are the model's (assumption log 1, 2 and 3). -/
def Obligations.PendingAccessesNeverChangeAResult : Prop :=
  ∀ (s : State) (accesses : List Access) (rest : List Event), s.busy = true →
    ∃ (t : State) (answer : Option Response) (count : Nat),
      step { s with agenda := .engine :: rest } = .next t ∧
      Host.Core.run Sys2Proof.core (accesses.length + 1)
          { s with agenda := accesses.map Event.access ++ .engine :: rest } =
        .next ({ t with response := answer, freeReads := count } : State)

/-- R68, R300: the completion step of an accepted command is taken after finitely many steps. If no reset stands among the
events to come, the command finishes, BUSY = 0 and DONE = 1, at the latest when the events of the agenda have passed and the
engine has moved once. With resets among them it is no longer in flight by then: it has finished or was abandoned (R290). That
the engine moves when no event is left is the model's choice (assumption log 1). -/
def Obligations.AcceptedCommandsFinish : Prop :=
  (∀ s : State, s.busy = true → Event.resetInput ∉ s.agenda →
    ∃ (k : Nat) (t : State), k ≤ s.agenda.length + 1 ∧ Host.Core.run Sys2Proof.core k s = .next t ∧
      t.busy = false ∧ t.done = true) ∧
  (∀ s : State, s.busy = true →
    ∃ (k : Nat) (t : State), k ≤ s.agenda.length + 1 ∧ Host.Core.run Sys2Proof.core k s = .next t ∧ t.busy = false)

/-- R300: the hardware never halts: every state has a next state, whatever happens next. That an idle block's step changes
nothing is the model's choice (assumption log 5). -/
def Obligations.TheMachineNeverStops : Prop :=
  ∀ s : State, ∃ t, step s = .next t

/-! ### The register window -/

/-- R60: the window is 4096 bytes at BASE, a multiple of 4096; an access at BASE + off reaches offset off, and an address
outside the window does not reach the block (assumption log 7). -/
def Obligations.WindowStartsAtBase : Prop :=
  Config.base % 4096 = 0 ∧
  (∀ (off : BitVec 12) (width : Nat), memRead (Config.base + off.toNat) width = some (.read off width)) ∧
  (∀ (off : BitVec 12) (width : Nat) (v : U32),
    memWrite (Config.base + off.toNat) width v = some (.write off width v)) ∧
  (∀ (addr width : Nat) (v : U32), addr < Config.base ∨ Config.base + 4096 ≤ addr →
    memRead addr width = none ∧ memWrite addr width v = none)

/-- R65: an access is answered ERROR if and only if at least one of the seven cases holds, and such an access changes no
architectural state, ERR and ERRCODE included. -/
def Obligations.RefusedAccessesAreTheSevenCases : Prop :=
  (∀ (s : State) (off : BitVec 12) (width : Nat),
    accessRefused s (.read off width) = true ↔
      (width ≠ 4 ∨ off.toNat % 4 ≠ 0 ∨ UnmappedOffset off.toNat ∨ (s.busy = true ∧ off.toNat ≠ 0x004))) ∧
  (∀ (s : State) (off : BitVec 12) (width : Nat) (v : U32),
    accessRefused s (.write off width v) = true ↔
      (width ≠ 4 ∨ off.toNat % 4 ≠ 0 ∨ UnmappedOffset off.toNat ∨ (off.toNat = 0x004 ∨ PointOffset off.toNat) ∨
       s.busy = true ∨ (off.toNat = 0x000 ∧ s.err = true) ∨ (off.toNat = 0x008 ∧ ∃ b : Fin 32, 2 ≤ b.val ∧ v.getLsbD b = true))) ∧
  (∀ (s : State) (a : Access), accessRefused s a = true → SameBlock s (hostStep s a))

/-- R62, R63, R65: an access answered ERROR changes no architectural state and no error is recorded; the data of such a read
is not pinned down. The field `response` is the model's (assumption log 2), the data a free value (assumption log 3). -/
def Obligations.RefusedAccessesChangeNothing : Prop :=
  ∀ (s : State) (a : Access), accessRefused s a = true →
    SameBlock s (hostStep s a) ∧ (hostStep s a).agenda = s.agenda ∧
    (match a with
     | .read _ _ => ∃ v, (hostStep s a).response = some (.readError v)
     | .write _ _ _ => (hostStep s a).response = some .writeError)

/-- R61, R62, R66, R67: an idle block answers a read of every mapped word with the word the map gives it, and no read changes
anything. Word j of a 256-bit value is its bits 255-32j down to 224-32j; infinity reads 0 in X and Y and 1 in INFO. -/
def Obligations.ReadsReturnTheMappedWord : Prop :=
  ∀ s : State, s.busy = false →
    hostStep s (.read 0x000#12 4) = { s with response := some (.readOkay s.cmdreg) } ∧
    hostStep s (.read 0x004#12 4) = { s with response := some (.readOkay (statusWord s)) } ∧
    hostStep s (.read 0x008#12 4) = { s with response := some (.readOkay 0#32) } ∧
    (∀ (i : FReg) (j : WordIdx),
      hostStep s (.read (BitVec.ofNat 12 (0x400 + 0x20 * i.val + 4 * j.val)) 4) =
        { s with response := some (.readOkay (BitVec.ofNat 32 ((s.readF i).toNat / 2 ^ (224 - 32 * j.val)))) }) ∧
    (∀ (k : PReg) (j : WordIdx) (x y : U256), s.readP k = .aff x y →
      hostStep s (.read (BitVec.ofNat 12 (0x800 + 0x80 * k.val + 4 * j.val)) 4) =
        { s with response := some (.readOkay (BitVec.ofNat 32 (x.toNat / 2 ^ (224 - 32 * j.val)))) } ∧
      hostStep s (.read (BitVec.ofNat 12 (0x820 + 0x80 * k.val + 4 * j.val)) 4) =
        { s with response := some (.readOkay (BitVec.ofNat 32 (y.toNat / 2 ^ (224 - 32 * j.val)))) } ∧
      hostStep s (.read (BitVec.ofNat 12 (0x840 + 0x80 * k.val)) 4) = { s with response := some (.readOkay 0#32) }) ∧
    (∀ (k : PReg) (j : WordIdx), s.readP k = .inf →
      hostStep s (.read (BitVec.ofNat 12 (0x800 + 0x80 * k.val + 4 * j.val)) 4) =
        { s with response := some (.readOkay 0#32) } ∧
      hostStep s (.read (BitVec.ofNat 12 (0x820 + 0x80 * k.val + 4 * j.val)) 4) =
        { s with response := some (.readOkay 0#32) } ∧
      hostStep s (.read (BitVec.ofNat 12 (0x840 + 0x80 * k.val)) 4) = { s with response := some (.readOkay 1#32) })

/-- R36: the fields of STATUS, its reserved bits 0, and that reading it is answered OKAY also while BUSY = 1 and has no
side effect. -/
def Obligations.StatusShowsItsFields : Prop :=
  ∀ s : State,
    (statusWord s).getLsbD 0 = s.busy ∧ (statusWord s).getLsbD 1 = s.done ∧ (statusWord s).getLsbD 2 = s.err ∧
    (statusWord s).getLsbD 3 = s.t ∧ (statusWord s).extractLsb' 4 4 = 0#4 ∧
    (statusWord s).extractLsb' 8 8 = s.errcode ∧ (statusWord s).extractLsb' 16 16 = 0#16 ∧
    hostStep s (.read 0x004#12 4) = { s with response := some (.readOkay (statusWord s)) }

/-- R63, R66: an accepted write to a word of an F register replaces those 32 bits of that register and nothing else. -/
def Obligations.FieldWordWritesReplaceOneWord : Prop :=
  ∀ (s : State) (i : FReg) (j : WordIdx) (v : U32), s.busy = false →
    ∃ x : U256,
      hostStep s (.write (BitVec.ofNat 12 (0x400 + 0x20 * i.val + 4 * j.val)) 4 v) =
        { s.writeF i x with response := some .writeOkay } ∧
      (∀ b < 256, x.getLsbD b =
        if 224 - 32 * j.val ≤ b ∧ b < 256 - 32 * j.val then v.getLsbD (b - (224 - 32 * j.val)) else (s.readF i).getLsbD b)

/-- R66, R70, R294 step 2: eight word writes, word 0 (the most significant) first, load a 256-bit value. -/
def Obligations.EightWordWritesLoadARegister : Prop :=
  ∀ (s : State) (i : FReg) (v : U256) (rest : List Event), s.busy = false →
    Host.Core.run Sys2Proof.core 8 { s with agenda := (loadWrites i v).map Event.access ++ rest } =
      .next ({ s.writeF i v with agenda := rest, response := some .writeOkay } : State)

/-- R68: an accepted write of w to CMD does `CMDREG <- w; BUSY <- 1; DONE <- 0` and changes nothing else, whether or not w is a
legal command. -/
def Obligations.CommandWriteStartsTheEngine : Prop :=
  ∀ (s : State) (w : U32), s.busy = false → s.err = false →
    hostStep s (.write 0x000#12 4 w) =
      { s with cmdreg := w, busy := true, done := false, response := some .writeOkay }

/-- R37: the four effects of an accepted CTRL write, the refusal of one with a reserved bit set, the read that gives 0, and the
refusal of both while BUSY = 1. -/
def Obligations.ControlWriteEffects : Prop :=
  (∀ (s : State) (v : U32), s.busy = false →
    ((∃ b : Fin 32, 2 ≤ b.val ∧ v.getLsbD b = true) →
      hostStep s (.write 0x008#12 4 v) = { s with response := some .writeError }) ∧
    (v = 0#32 → hostStep s (.write 0x008#12 4 v) = { s with response := some .writeOkay }) ∧
    (v = 1#32 → hostStep s (.write 0x008#12 4 v) =
      { s with err := false, errcode := 0#8, response := some .writeOkay }) ∧
    (v = 2#32 ∨ v = 3#32 → hostStep s (.write 0x008#12 4 v) =
      { State.reset with agenda := s.agenda, response := some .writeOkay, freeReads := s.freeReads }) ∧
    hostStep s (.read 0x008#12 4) = { s with response := some (.readOkay 0#32) }) ∧
  (∀ (s : State) (v : U32), s.busy = true →
    accessRefused s (.write 0x008#12 4 v) = true ∧ accessRefused s (.read 0x008#12 4) = true ∧
    SameBlock s (hostStep s (.write 0x008#12 4 v)) ∧ SameBlock s (hostStep s (.read 0x008#12 4)))

/-- R264: while ERR = 1 (BUSY is 0 then) a write to CMD gets ERROR and starts nothing; reads of every mapped word, writes to F
words and writes to CTRL have their normal effects; and no step records a second error: as long as ERR stays 1 the code stays
that of the first failing command and no command runs. The field `response` is the model's (assumption log 2). -/
def Obligations.NoCommandIsAcceptedWhileAnErrorStands : Prop :=
  ∀ s : State, s.err = true → s.busy = false →
    (∀ w : U32, hostStep s (.write 0x000#12 4 w) = { s with response := some .writeError }) ∧
    (∀ loc : Loc, hostStep s (.read (offsetOf loc) 4) = { s with response := some (.readOkay (readLoc s loc)) }) ∧
    (∀ (i : FReg) (j : WordIdx) (v : U32), ∃ x : U256,
      hostStep s (.write (offsetOf (.fWord i j)) 4 v) = { s.writeF i x with response := some .writeOkay } ∧
      (∀ b < 256, x.getLsbD b =
        if 224 - 32 * j.val ≤ b ∧ b < 256 - 32 * j.val then v.getLsbD (b - (224 - 32 * j.val)) else (s.readF i).getLsbD b)) ∧
    hostStep s (.write 0x008#12 4 0#32) = { s with response := some .writeOkay } ∧
    hostStep s (.write 0x008#12 4 1#32) = { s with err := false, errcode := 0#8, response := some .writeOkay } ∧
    (∀ v : U32, v = 2#32 ∨ v = 3#32 → hostStep s (.write 0x008#12 4 v) =
      { State.reset with agenda := s.agenda, response := some .writeOkay, freeReads := s.freeReads }) ∧
    (∀ v : U32, (∃ b : Fin 32, 2 ≤ b.val ∧ v.getLsbD b = true) →
      hostStep s (.write 0x008#12 4 v) = { s with response := some .writeError }) ∧
    (∀ t : State, step s = .next t → t.err = true → t.errcode = s.errcode ∧ t.busy = false ∧ t.cmdreg = s.cmdreg)

/-- R64: while BUSY = 1 the only access that gets OKAY is a (word) read of STATUS; every other read and every write gets
ERROR and changes nothing. -/
def Obligations.OnlyStatusIsReadableWhileBusy : Prop :=
  ∀ (s : State) (a : Access), s.busy = true →
    (accessRefused s a = false ↔ a = .read 0x004#12 4) ∧ SameBlock s (hostStep s a)

/-! ### Invariants -/

/-- R48: the state after reset meets both invariants. -/
def Obligations.ResetMeetsTheInvariants : Prop :=
  statusOk State.reset = true ∧ PointsOk State.reset

/-- R270, R36: every step keeps the status bits in one of the four combinations: idle after reset, busy, done, done with a
listed error code. -/
def Obligations.StepsKeepTheStatusMachine : Prop :=
  ∀ s t : State, statusOk s = true → step s = .next t → statusOk t = true

/-- R33: every step, a host access, a reset or any of the 27 commands, keeps every P register a Point: infinity, or
coordinates below p on the curve. -/
def Obligations.StepsKeepEveryPointRegisterOnTheCurve : Prop :=
  ∀ s t : State, PointsOk s → step s = .next t → PointsOk t

/-! ### Utility commands -/

/-- R250: NOP writes nothing but DONE and BUSY; its word is 0. R251: FMOV. R252: FSEL. R253: FEQ. -/
def Obligations.UtilityCommandsComplete : Prop :=
  ∀ (s : State) (rd ra rb : FReg),
    (encode .nop = 0x00000000#32 ∧ exec .nop s = .next { s with busy := false, done := true }) ∧
    ((encode (.fmov rd ra)).toNat = 0x01000000 + rd.val * 2 ^ 20 + ra.val * 2 ^ 16 ∧
     exec (.fmov rd ra) s = .next { s.writeF rd (s.readF ra) with busy := false, done := true }) ∧
    ((encode (.fsel rd ra rb)).toNat = 0x02000000 + rd.val * 2 ^ 20 + ra.val * 2 ^ 16 + rb.val * 2 ^ 12 ∧
     exec (.fsel rd ra rb) s =
       .next { s.writeF rd (if s.t = true then s.readF ra else s.readF rb) with busy := false, done := true }) ∧
    ((encode (.feq ra rb)).toNat = 0x03000000 + ra.val * 2 ^ 16 + rb.val * 2 ^ 12 ∧
     exec (.feq ra rb) s =
       .next { s with t := decide ((s.readF ra).toNat = (s.readF rb).toNat), busy := false, done := true })

/-! ### Field arithmetic -/

/-- R129, R130, R131 (with R121 to R123): FADD, FSUB and FMUL modulo p or n, every operand register; an operand not below
the modulus is the error 0x02 and nothing is written. -/
def Obligations.AddSubMulComplete : Prop :=
  ∀ (s : State) (sel : Modulus) (m a b : Nat) (rd ra rb : FReg),
    m = (if sel = .p then Config.fieldPrime else Config.groupOrder) →
    a = (s.readF ra).toNat → b = (s.readF rb).toNat →
    ((encode (.fadd sel rd ra rb)).toNat = 0x10000000 + rd.val * 2 ^ 20 + ra.val * 2 ^ 16 + rb.val * 2 ^ 12 + (if sel = .p then 0 else 1) ∧
     (encode (.fsub sel rd ra rb)).toNat = 0x11000000 + rd.val * 2 ^ 20 + ra.val * 2 ^ 16 + rb.val * 2 ^ 12 + (if sel = .p then 0 else 1) ∧
     (encode (.fmul sel rd ra rb)).toNat = 0x12000000 + rd.val * 2 ^ 20 + ra.val * 2 ^ 16 + rb.val * 2 ^ 12 + (if sel = .p then 0 else 1)) ∧
    (a < m → b < m →
      exec (.fadd sel rd ra rb) s =
        .next { s.writeF rd (BitVec.ofNat 256 (if a + b < m then a + b else a + b - m)) with busy := false, done := true } ∧
      exec (.fsub sel rd ra rb) s =
        .next { s.writeF rd (BitVec.ofNat 256 (if b ≤ a then a - b else a + m - b)) with busy := false, done := true } ∧
      exec (.fmul sel rd ra rb) s =
        .next { s.writeF rd (BitVec.ofNat 256 (a * b % m)) with busy := false, done := true }) ∧
    (m ≤ a ∨ m ≤ b →
      exec (.fadd sel rd ra rb) s = .next { s with err := true, errcode := 0x02#8, busy := false, done := true } ∧
      exec (.fsub sel rd ra rb) s = .next { s with err := true, errcode := 0x02#8, busy := false, done := true } ∧
      exec (.fmul sel rd ra rb) s = .next { s with err := true, errcode := 0x02#8, busy := false, done := true })

/-- R132: FRED takes any 256-bit value and subtracts the modulus at most once. -/
def Obligations.ReduceCompletes : Prop :=
  ∀ (s : State) (sel : Modulus) (m a : Nat) (rd ra : FReg),
    m = (if sel = .p then Config.fieldPrime else Config.groupOrder) → a = (s.readF ra).toNat →
    (encode (.fred sel rd ra)).toNat = 0x13000000 + rd.val * 2 ^ 20 + ra.val * 2 ^ 16 + (if sel = .p then 0 else 1) ∧
    a % m = (if a < m then a else a - m) ∧
    exec (.fred sel rd ra) s =
      .next { s.writeF rd (BitVec.ofNat 256 (a % m)) with busy := false, done := true }

/-- R133, R125: FINV raises OPERAND_RANGE before INV_ZERO; otherwise it writes `a^(p-2) mod p`, and that value times a is 1
modulo p. -/
def Obligations.InverseCompletes : Prop :=
  ∀ (s : State) (a : Nat) (rd ra : FReg), a = (s.readF ra).toNat →
    (encode (.finv rd ra)).toNat = 0x14000000 + rd.val * 2 ^ 20 + ra.val * 2 ^ 16 ∧
    (a < Config.fieldPrime → a ≠ 0 →
      (∃ v : U256, v.toNat = a ^ (Config.fieldPrime - 2) % Config.fieldPrime ∧ v.toNat * a % Config.fieldPrime = 1 ∧
        exec (.finv rd ra) s = .next { s.writeF rd v with busy := false, done := true })) ∧
    (Config.fieldPrime ≤ a →
      exec (.finv rd ra) s = .next { s with err := true, errcode := 0x02#8, busy := false, done := true }) ∧
    (a = 0 → exec (.finv rd ra) s = .next { s with err := true, errcode := 0x03#8, busy := false, done := true })

/-- R135, R124: FEXP writes `a^e mod p` for any 256-bit exponent, unreduced (so `a^0` is 1 for every a, 0 included); a base not
below p is the error 0x02. -/
def Obligations.PowerCompletes : Prop :=
  ∀ (s : State) (a e : Nat) (rd ra rb : FReg), a = (s.readF ra).toNat → e = (s.readF rb).toNat →
    (encode (.fexp rd ra rb)).toNat = 0x15000000 + rd.val * 2 ^ 20 + ra.val * 2 ^ 16 + rb.val * 2 ^ 12 ∧
    (a < Config.fieldPrime →
      (∃ v : U256, v.toNat = a ^ e % Config.fieldPrime ∧
        exec (.fexp rd ra rb) s = .next { s.writeF rd v with busy := false, done := true })) ∧
    (Config.fieldPrime ≤ a →
      exec (.fexp rd ra rb) s = .next { s with err := true, errcode := 0x02#8, busy := false, done := true })

/-- R136, R126: FSQRT writes a root of its operand if there is one, always the root that is a quadratic residue (0 for 0);
OPERAND_RANGE comes first, and an operand that no value squares to is the error 0x04. -/
def Obligations.SquareRootCompletes : Prop :=
  ∀ (s : State) (c : Nat) (rd ra : FReg), c = (s.readF ra).toNat →
    (encode (.fsqrt rd ra)).toNat = 0x16000000 + rd.val * 2 ^ 20 + ra.val * 2 ^ 16 ∧
    ((∃ y : Nat, y * y % Config.fieldPrime = c) →
      (∃ v : U256, v.toNat = c ^ ((Config.fieldPrime + 1) / 4) % Config.fieldPrime ∧
        v.toNat * v.toNat % Config.fieldPrime = c ∧ (c ≠ 0 → isQuad v.toNat = true) ∧
        exec (.fsqrt rd ra) s = .next { s.writeF rd v with busy := false, done := true })) ∧
    (Config.fieldPrime ≤ c →
      exec (.fsqrt rd ra) s = .next { s with err := true, errcode := 0x02#8, busy := false, done := true }) ∧
    (c < Config.fieldPrime → (∀ y : Nat, y * y % Config.fieldPrime ≠ c) →
      exec (.fsqrt rd ra) s = .next { s with err := true, errcode := 0x04#8, busy := false, done := true })

/-- R134, R128: FISQ sets T to 1 if the (p-1)/2-th power of its operand is 1 modulo p, to 0 if not; an operand not below p is
the error 0x02 and T keeps its value. -/
def Obligations.ResidueTestCompletes : Prop :=
  ∀ (s : State) (v : Nat) (ra : FReg), v = (s.readF ra).toNat →
    (encode (.fisq ra)).toNat = 0x17000000 + ra.val * 2 ^ 16 ∧
    (v < Config.fieldPrime →
      exec (.fisq ra) s =
        .next { s with t := decide (v ^ ((Config.fieldPrime - 1) / 2) % Config.fieldPrime = 1), busy := false, done := true }) ∧
    (Config.fieldPrime ≤ v →
      exec (.fisq ra) s = .next { s with err := true, errcode := 0x02#8, busy := false, done := true })

/-- R128: Euler's criterion, whose power is 1 or p - 1 for a nonzero v; 0 is no quadratic residue, 1 is one, -1 is none, and
exactly one of v and p - v is one. And the residues are the nonzero squares (R126). -/
def Obligations.ExactlyOneOfAPairIsAResidue : Prop :=
  isQuad 0 = false ∧ isQuad 1 = true ∧ isQuad (Config.fieldPrime - 1) = false ∧
  ∀ v : Nat, v < Config.fieldPrime →
    (isQuad v = true ↔ v ^ ((Config.fieldPrime - 1) / 2) % Config.fieldPrime = 1) ∧
    (0 < v →
      (v ^ ((Config.fieldPrime - 1) / 2) % Config.fieldPrime = 1 ∨
        v ^ ((Config.fieldPrime - 1) / 2) % Config.fieldPrime = Config.fieldPrime - 1) ∧
      (isQuad v = true ↔ ∃ y : Nat, y * y % Config.fieldPrime = v) ∧
      (isQuad (Config.fieldPrime - v) = !isQuad v))

/-! ### Curve points -/

/-- R153, R154, R155, R158: PINF, PLDG, PMOV and PISINF. -/
def Obligations.PointMovesComplete : Prop :=
  ∀ (s : State) (rd ra : PReg),
    ((encode (.pinf rd)).toNat = 0x20000000 + rd.val * 2 ^ 20 ∧
     exec (.pinf rd) s = .next { s.writeP rd .inf with busy := false, done := true }) ∧
    ((encode (.pldg rd)).toNat = 0x21000000 + rd.val * 2 ^ 20 ∧
     exec (.pldg rd) s =
       .next { s.writeP rd (.aff 0x79BE667EF9DCBBAC55A06295CE870B07029BFCDB2DCE28D959F2815B16F81798#256
         0x483ADA7726A3C4655DA4FBFC0E1108A8FD17B448A68554199C47D08FFB10D4B8#256) with busy := false, done := true }) ∧
    ((encode (.pmov rd ra)).toNat = 0x22000000 + rd.val * 2 ^ 20 + ra.val * 2 ^ 16 ∧
     exec (.pmov rd ra) s = .next { s.writeP rd (s.readP ra) with busy := false, done := true }) ∧
    ((encode (.pisinf ra)).toNat = 0x26000000 + ra.val * 2 ^ 16 ∧
     exec (.pisinf ra) s = .next { s with t := decide (s.readP ra = .inf), busy := false, done := true })

/-- R156: PSET writes the point of two coordinates that satisfy the curve equation, either root; OPERAND_RANGE comes before
NOT_ON_CURVE. -/
def Obligations.PointSetCompletes : Prop :=
  ∀ (s : State) (x y : Nat) (rd : PReg) (ra rb : FReg), x = (s.readF ra).toNat → y = (s.readF rb).toNat →
    (encode (.pset rd ra rb)).toNat = 0x23000000 + rd.val * 2 ^ 20 + ra.val * 2 ^ 16 + rb.val * 2 ^ 12 ∧
    (x < Config.fieldPrime → y < Config.fieldPrime →
        y * y % Config.fieldPrime = (x * x * x + 7) % Config.fieldPrime →
      exec (.pset rd ra rb) s =
        .next { s.writeP rd (.aff (s.readF ra) (s.readF rb)) with busy := false, done := true }) ∧
    (Config.fieldPrime ≤ x ∨ Config.fieldPrime ≤ y →
      exec (.pset rd ra rb) s = .next { s with err := true, errcode := 0x02#8, busy := false, done := true }) ∧
    (x < Config.fieldPrime → y < Config.fieldPrime →
        y * y % Config.fieldPrime ≠ (x * x * x + 7) % Config.fieldPrime →
      exec (.pset rd ra rb) s = .next { s with err := true, errcode := 0x06#8, busy := false, done := true })

/-- R183, R157: PGETX and PGETY give the coordinates of an affine point, and raise INFINITY for the point at infinity. -/
def Obligations.CoordinateReadsComplete : Prop :=
  ∀ (s : State) (rd : FReg) (ra : PReg),
    ((encode (.pgetx rd ra)).toNat = 0x24000000 + rd.val * 2 ^ 20 + ra.val * 2 ^ 16 ∧
     (encode (.pgety rd ra)).toNat = 0x25000000 + rd.val * 2 ^ 20 + ra.val * 2 ^ 16) ∧
    (∀ x y : U256, s.readP ra = .aff x y →
      exec (.pgetx rd ra) s = .next { s.writeF rd x with busy := false, done := true } ∧
      exec (.pgety rd ra) s = .next { s.writeF rd y with busy := false, done := true }) ∧
    (s.readP ra = .inf →
      exec (.pgetx rd ra) s = .next { s with err := true, errcode := 0x07#8, busy := false, done := true } ∧
      exec (.pgety rd ra) s = .next { s with err := true, errcode := 0x07#8, busy := false, done := true })

/-- R181, R182: PLIFT writes the point with the given x-coordinate whose y is a quadratic residue; it fails with POINT_DECODE
for an x not below p and for an x that no point of the curve has. -/
def Obligations.LiftCompletes : Prop :=
  ∀ (s : State) (x : Nat) (rd : PReg) (ra : FReg), x = (s.readF ra).toNat →
    (encode (.plift rd ra)).toNat = 0x27000000 + rd.val * 2 ^ 20 + ra.val * 2 ^ 16 ∧
    (x < Config.fieldPrime → (∃ y : Nat, y * y % Config.fieldPrime = (x * x * x + 7) % Config.fieldPrime) →
      (∃ y : U256, y.toNat = ((x * x * x + 7) % Config.fieldPrime) ^ ((Config.fieldPrime + 1) / 4) % Config.fieldPrime ∧
        (Point.aff (s.readF ra) y).valid = true ∧ isQuad y.toNat = true ∧ y.toNat ≠ 0 ∧
        exec (.plift rd ra) s = .next { s.writeP rd (.aff (s.readF ra) y) with busy := false, done := true })) ∧
    (Config.fieldPrime ≤ x →
      exec (.plift rd ra) s = .next { s with err := true, errcode := 0x05#8, busy := false, done := true }) ∧
    (x < Config.fieldPrime → (∀ y : Nat, y * y % Config.fieldPrime ≠ (x * x * x + 7) % Config.fieldPrime) →
      exec (.plift rd ra) s = .next { s with err := true, errcode := 0x05#8, busy := false, done := true })

/-- R185: decoding the x-coordinate of a point gives the point back if its y is a quadratic residue, and its negative if not;
and whatever point decoding gives has the x-coordinate decoded. -/
def Obligations.LiftingAnXCoordinateGivesThePointOrItsNegative : Prop :=
  (∀ x y : U256, (Point.aff x y).valid = true →
    liftX x = .ok (if isQuad y.toNat = true then .aff x y else .aff x (BitVec.ofNat 256 (Config.fieldPrime - y.toNat)))) ∧
  (∀ (x : U256) (q : Point), liftX x = .ok q → ∃ y : U256, q = .aff x y ∧ q.valid = true ∧ isQuad y.toNat = true)

/-- R159, R161: on P registers that hold points, PADD and PDBL never fail and write a point, the sum of R151. Where the sum
fails (it inverts 0, in states no run reaches) the command raises INV_ZERO. -/
def Obligations.PointAdditionCommandsComplete : Prop :=
  ∀ (s : State) (rd ra rb : PReg),
    ((encode (.padd rd ra rb)).toNat = 0x28000000 + rd.val * 2 ^ 20 + ra.val * 2 ^ 16 + rb.val * 2 ^ 12 ∧
     (encode (.pdbl rd ra)).toNat = 0x29000000 + rd.val * 2 ^ 20 + ra.val * 2 ^ 16) ∧
    ((s.readP ra).valid = true → (s.readP rb).valid = true →
      ∃ q : Point, q.valid = true ∧ pointAdd (s.readP ra) (s.readP rb) = .ok q ∧
        exec (.padd rd ra rb) s = .next { s.writeP rd q with busy := false, done := true }) ∧
    ((s.readP ra).valid = true →
      ∃ q : Point, q.valid = true ∧ pointAdd (s.readP ra) (s.readP ra) = .ok q ∧
        exec (.pdbl rd ra) s = .next { s.writeP rd q with busy := false, done := true }) ∧
    (∀ e : CmdError, pointAdd (s.readP ra) (s.readP rb) = .error e →
      exec (.padd rd ra rb) s = .next { s with err := true, errcode := 0x03#8, busy := false, done := true }) ∧
    (∀ e : CmdError, pointAdd (s.readP ra) (s.readP ra) = .error e →
      exec (.pdbl rd ra) s = .next { s with err := true, errcode := 0x03#8, busy := false, done := true })

/-- R151: the cases of `point_add` on points, as integers modulo p: infinity on either side, opposite points, and the slope and
coordinates of the doubling and of the general addition, which give a point; and the failure of a doubling with y = 0. -/
def Obligations.PointAdditionFollowsItsFiveCases : Prop :=
  (∀ q : Point, pointAdd .inf q = .ok q ∧ pointAdd q .inf = .ok q) ∧
  (∀ x y1 y2 : U256, y1 ≠ y2 → pointAdd (.aff x y1) (.aff x y2) = .ok .inf) ∧
  (∀ x y : U256, (Point.aff x y).valid = true →
    ∃ (lam : Nat) (x3 y3 : U256), lam * (2 * y.toNat) % Config.fieldPrime = 3 * x.toNat * x.toNat % Config.fieldPrime ∧
      (x3.toNat + 2 * x.toNat) % Config.fieldPrime = lam * lam % Config.fieldPrime ∧
      (y3.toNat + y.toNat + lam * x3.toNat) % Config.fieldPrime = lam * x.toNat % Config.fieldPrime ∧
      (Point.aff x3 y3).valid = true ∧
      pointAdd (.aff x y) (.aff x y) = .ok (.aff x3 y3)) ∧
  (∀ x1 y1 x2 y2 : U256, (Point.aff x1 y1).valid = true → (Point.aff x2 y2).valid = true → x1 ≠ x2 →
    ∃ (lam : Nat) (x3 y3 : U256),
      (lam * x2.toNat + y1.toNat) % Config.fieldPrime = (lam * x1.toNat + y2.toNat) % Config.fieldPrime ∧
      (x3.toNat + x1.toNat + x2.toNat) % Config.fieldPrime = lam * lam % Config.fieldPrime ∧
      (y3.toNat + y1.toNat + lam * x3.toNat) % Config.fieldPrime = lam * x1.toNat % Config.fieldPrime ∧
      (Point.aff x3 y3).valid = true ∧
      pointAdd (.aff x1 y1) (.aff x2 y2) = .ok (.aff x3 y3)) ∧
  (∀ x : U256, pointAdd (.aff x 0#256) (.aff x 0#256) = .error .invZero)

/-- R12, R151: the points with `point_add` form a commutative group with identity infinity: infinity is a point and the
identity on both sides, sums are points, the order of two summands and the grouping of three do not matter, and every point
has its negative. -/
def Obligations.PointsFormACommutativeGroup : Prop :=
  (Point.inf.valid = true ∧ ∀ q : Point, q.valid = true → pointAdd .inf q = .ok q ∧ pointAdd q .inf = .ok q) ∧
  (∀ q r : Point, q.valid = true → r.valid = true →
    ∃ z, z.valid = true ∧ pointAdd q r = .ok z ∧ pointAdd r q = .ok z) ∧
  (∀ q : Point, q.valid = true → (negPoint q).valid = true ∧ pointAdd q (negPoint q) = .ok .inf) ∧
  (∀ q r u qr ru : Point, q.valid = true → r.valid = true → u.valid = true →
    pointAdd q r = .ok qr → pointAdd r u = .ok ru → pointAdd qr u = pointAdd q ru)

/-- R160, R12: on a point, `point_mul` never fails and is the k-fold sum, for every 256-bit k. -/
def Obligations.ScalarMultiplicationIsTheRepeatedSum : Prop :=
  ∀ (q : Point) (k : U256), q.valid = true →
    ∃ z, z.valid = true ∧ pointMul q k = .ok z ∧ sumOf q k.toNat = .ok z

/-- R162: PMUL with any scalar on a P register that holds a point never fails and writes `point_mul` of them, the k-fold sum.
Where `point_mul` fails (in states no run reaches) the command raises INV_ZERO. -/
def Obligations.ScalarMultiplicationCompletes : Prop :=
  ∀ (s : State) (rd ra : PReg) (rb : FReg),
    (encode (.pmul rd ra rb)).toNat = 0x2A000000 + rd.val * 2 ^ 20 + ra.val * 2 ^ 16 + rb.val * 2 ^ 12 ∧
    ((s.readP ra).valid = true →
      ∃ q : Point, pointMul (s.readP ra) (s.readF rb) = .ok q ∧ sumOf (s.readP ra) (s.readF rb).toNat = .ok q ∧
        exec (.pmul rd ra rb) s = .next { s.writeP rd q with busy := false, done := true }) ∧
    (∀ e : CmdError, pointMul (s.readP ra) (s.readF rb) = .error e →
      exec (.pmul rd ra rb) s = .next { s with err := true, errcode := 0x03#8, busy := false, done := true })

/-- R160, R12 (for multiples of G): `n·G` is infinity and no smaller positive multiple is, so `point_mul(G, k)` depends on k
modulo n alone. -/
def Obligations.TheBasePointHasOrderN : Prop :=
  pointMul basePoint (BitVec.ofNat 256 Config.groupOrder) = .ok .inf ∧
  (∀ k : U256, 0 < k.toNat → k.toNat < Config.groupOrder → pointMul basePoint k ≠ .ok .inf) ∧
  (∀ k : U256, pointMul basePoint k = pointMul basePoint (BitVec.ofNat 256 (k.toNat % Config.groupOrder)))

/-! ### The tagged hash -/

/-- R14: byte k of `bytes32(v)` is `v[255-8k : 248-8k]`; `int` inverts `bytes32`, and `bytes32` inverts `int` on strings of 32
bytes. -/
def Obligations.BytesAndIntegersAreInverse : Prop :=
  (∀ v : U256, (bytes32 v).length = 32 ∧ intOfBytes (bytes32 v) = v ∧
    ∀ k < 32, (bytes32 v).getD k 0#8 = BitVec.ofNat 8 (v.toNat / 2 ^ (248 - 8 * k))) ∧
  (∀ b : List Byte, b.length = 32 → bytes32 (intOfBytes b) = b)

/-- R191 step 1: padding appends 0x80, then z zero bytes, then the bit length in 8 big-endian bytes, z the smallest number that
makes the length a multiple of 64. -/
def Obligations.PaddingFillsTheLastBlock : Prop :=
  ∀ msg : List Byte, msg.length < 2 ^ 61 →
    ∃ (z : Nat) (len : List Byte), shaPad msg = msg ++ [0x80#8] ++ List.replicate z 0x00#8 ++ len ∧
      z < 64 ∧ (z + msg.length) % 64 = 55 ∧ (shaPad msg).length % 64 = 0 ∧ len.length = 8 ∧
      len.foldl (fun acc x => 256 * acc + x.toNat) 0 = 8 * msg.length

/-- R195: the message schedule of a 64-byte block: 64 words, the first 16 the block's own, big-endian, and each later one by
the recurrence. -/
def Obligations.ScheduleFollowsItsRecurrence : Prop :=
  ∀ block : List Byte, block.length = 64 →
    (scheduleW block).length = 64 ∧
    (∀ t < 16, ((scheduleW block).getD t 0#32).toNat =
      (block.getD (4 * t) 0#8).toNat * 2 ^ 24 + (block.getD (4 * t + 1) 0#8).toNat * 2 ^ 16 +
        (block.getD (4 * t + 2) 0#8).toNat * 2 ^ 8 + (block.getD (4 * t + 3) 0#8).toNat) ∧
    (∀ t, 16 ≤ t → t < 64 → (scheduleW block).getD t 0#32 =
      ssig1 ((scheduleW block).getD (t - 2) 0#32) + (scheduleW block).getD (t - 7) 0#32 +
        ssig0 ((scheduleW block).getD (t - 15) 0#32) + (scheduleW block).getD (t - 16) 0#32)

/-- R196, R197: the check digests of the empty string and "abc", and the digests of the two tags. -/
def Obligations.KnownDigests : Prop :=
  intOfBytes (sha256 []) = 0xe3b0c44298fc1c149afbf4c8996fb92427ae41e4649b934ca495991b7852b855#256 ∧
  intOfBytes (sha256 [0x61#8, 0x62#8, 0x63#8]) = 0xba7816bf8f01cfea414140de5dae2223b00361a396177a9cb410ff61f20015ad#256 ∧
  intOfBytes (sha256 Config.tagDerive) = 0xec1db72431727c0f1c54e5da6965d991749cdb1929d05f1f8f098cd689fb91df#256 ∧
  intOfBytes (sha256 Config.tagChallenge) = 0x30caa02fc899d5247e90ca74effbd3ca637de092f8553a36d9ba7509f9272a11#256

/-- R198, R197: THASH over the registers `F[ra]` to `F[ra+cnt-1]`, lowest first, each as 32 big-endian bytes, unreduced. -/
def Obligations.TaggedHashCompletes : Prop :=
  ∀ (s : State) (tag : Tag) (rd ra : FReg) (cnt : Fin 16) (tagString msg : List Byte), ra.val + cnt.val ≤ 16 →
    tagString = (if tag = .derive then "BIPSchnorrDerive" else "BIPSchnorr").toList.map (fun c => BitVec.ofNat 8 c.toNat) →
    msg = ((List.finRange 16).filter (fun r => decide (ra.val ≤ r.val ∧ r.val < ra.val + cnt.val))).flatMap
      (fun r => bytes32 (s.readF r)) →
    (encode (.thash tag rd ra cnt)).toNat =
      0x30000000 + rd.val * 2 ^ 20 + ra.val * 2 ^ 16 + cnt.val * 2 ^ 8 + (if tag = .derive then 0 else 1) ∧
    exec (.thash tag rd ra cnt) s =
      .next { s.writeF rd (intOfBytes (sha256 (sha256 tagString ++ sha256 tagString ++ msg))) with
        busy := false, done := true }

/-! ### Keys and signatures -/

/-- R221, R220: KEYGEN fails with INVALID_SECRET_KEY for 0 and for a secret not below n, and for every other secret writes the
x-coordinate of d·G, which is never infinity. -/
def Obligations.KeyGenerationCompletes : Prop :=
  ∀ (s : State) (d : Nat) (rd ra : FReg), d = (s.readF ra).toNat →
    (encode (.keygen rd ra)).toNat = 0x40000000 + rd.val * 2 ^ 20 + ra.val * 2 ^ 16 ∧
    (1 ≤ d → d < Config.groupOrder →
      ∃ x y : U256, pointMul basePoint (s.readF ra) = .ok (.aff x y) ∧
        exec (.keygen rd ra) s = .next { s.writeF rd x with busy := false, done := true }) ∧
    (d = 0 ∨ Config.groupOrder ≤ d →
      exec (.keygen rd ra) s = .next { s with err := true, errcode := 0x08#8, busy := false, done := true })

/-- R220: `key_gen(d)` and `key_gen(n - d)` return the same 32 bytes. -/
def Obligations.OppositeSecretsHaveTheSameKey : Prop :=
  ∀ d : U256, 1 ≤ d.toNat → d.toNat < Config.groupOrder →
    keyGen (BitVec.ofNat 256 (Config.groupOrder - d.toNat)) = keyGen d

/-- R231, R230: SIGN, its two destinations different. An invalid secret is the error 0x08, a derived nonce of 0 the error 0x09
(no input that derives it is known, 91_not_in_source.md N17); every other case writes r = x(k0·G) and s = (k + e·d0) mod n,
with k0, k and e as the seven steps say. -/
def Obligations.SigningCompletes : Prop :=
  ∀ (s : State) (m d0 : U256) (k0 : Nat) (rd rc ra rb : FReg), rd ≠ rc → m = s.readF ra → d0 = s.readF rb →
    k0 = (intOfBytes (taggedHash Config.tagDerive (bytes32 d0 ++ bytes32 m))).toNat % Config.groupOrder →
    (encode (.sign rd rc ra rb)).toNat =
      0x41000000 + rd.val * 2 ^ 20 + ra.val * 2 ^ 16 + rb.val * 2 ^ 12 + rc.val * 2 ^ 8 ∧
    (1 ≤ d0.toNat → d0.toNat < Config.groupOrder →
      (if k0 = 0 then
        exec (.sign rd rc ra rb) s = .next { s with err := true, errcode := 0x09#8, busy := false, done := true }
       else
        ∃ (xP yP xR yR : U256) (k e : Nat),
          pointMul basePoint d0 = .ok (.aff xP yP) ∧ pointMul basePoint (BitVec.ofNat 256 k0) = .ok (.aff xR yR) ∧
          k = (if isQuad yR.toNat = true then k0 else Config.groupOrder - k0) ∧
          e = (intOfBytes (taggedHash Config.tagChallenge (bytes32 xR ++ bytes32 xP ++ bytes32 m))).toNat %
            Config.groupOrder ∧
          exec (.sign rd rc ra rb) s =
            .next { (s.writeF rd xR).writeF rc (BitVec.ofNat 256 ((k + e * d0.toNat) % Config.groupOrder)) with
              busy := false, done := true })) ∧
    (d0.toNat = 0 ∨ Config.groupOrder ≤ d0.toNat →
      exec (.sign rd rc ra rb) s = .next { s with err := true, errcode := 0x08#8, busy := false, done := true })

/-- R233: the nonce k that signing uses commits to a point whose y is a quadratic residue and whose x is that of k0·G. -/
def Obligations.NormalisedNoncesCommitToResidues : Prop :=
  ∀ (k0 : Nat) (xR yR : U256), 1 ≤ k0 → k0 < Config.groupOrder →
    pointMul basePoint (BitVec.ofNat 256 k0) = .ok (.aff xR yR) →
    ∃ y : U256, isQuad y.toNat = true ∧
      pointMul basePoint (BitVec.ofNat 256 (if isQuad yR.toNat = true then k0 else Config.groupOrder - k0)) = .ok (.aff xR y)

/-- R241, R240: VERIFY writes T and nothing else, on every operand; T is 1 exactly when the key decodes, r < p, s < n, and
`R = s·G + (n-e)·P` is a point with x(R) = r and a quadratic-residue y. -/
def Obligations.VerificationCompletes : Prop :=
  ∀ (s : State) (m pk r sig : U256) (e : Nat) (ra rb rc rd : FReg),
    m = s.readF ra → pk = s.readF rb → r = s.readF rc → sig = s.readF rd →
    e = (intOfBytes (taggedHash Config.tagChallenge (bytes32 r ++ bytes32 pk ++ bytes32 m))).toNat % Config.groupOrder →
    (encode (.verify ra rb rc rd)).toNat =
      0x42000000 + rd.val * 2 ^ 20 + ra.val * 2 ^ 16 + rb.val * 2 ^ 12 + rc.val * 2 ^ 8 ∧
    ∃ b : Bool,
      exec (.verify ra rb rc rd) s = .next { s with t := b, busy := false, done := true } ∧
      (b = true ↔ r.toNat < Config.fieldPrime ∧ sig.toNat < Config.groupOrder ∧
        ∃ (q a c : Point) (y : U256), liftX pk = .ok q ∧ pointMul basePoint sig = .ok a ∧
          pointMul q (BitVec.ofNat 256 (Config.groupOrder - e)) = .ok c ∧ pointAdd a c = .ok (.aff r y) ∧
          isQuad y.toNat = true)

/-- R243: a failing verification leaves no trace of why: two runs of VERIFY from states that differ only in the F registers
differ after it only in the F registers and T, and neither records an error. -/
def Obligations.VerificationTellsOnlyItsAnswer : Prop :=
  ∀ (s t t' : State) (f' : Vector U256 16) (ra rb rc rd : FReg),
    exec (.verify ra rb rc rd) s = .next t → exec (.verify ra rb rc rd) { s with f := f' } = .next t' →
    t' = { t with f := f', t := t'.t } ∧ t.f = s.f ∧ t.err = s.err ∧ t.errcode = s.errcode

/-- R234: KEYGEN, SIGN and VERIFY in a row, for a secret d in F1 and a message in F0, all run without an error, and the
signature verifies under the key exactly if the y-coordinate of d·G is a quadratic residue or the challenge is 0 (no input with
challenge 0 is known). -/
def Obligations.SignaturesVerifyExactlyForResidueKeysOrChallengeZero : Prop :=
  ∀ (s : State) (xP yP : U256), s.err = false → 1 ≤ (s.readF 1).toNat → (s.readF 1).toNat < Config.groupOrder →
    hashScalar .derive [s.readF 1, s.readF 0] ≠ 0 → pointMul basePoint (s.readF 1) = .ok (.aff xP yP) →
    ∃ s1 s2 s3 : State, exec (.keygen 4 1) s = .next s1 ∧ exec (.sign 2 3 0 1) s1 = .next s2 ∧
      exec (.verify 0 4 2 3) s2 = .next s3 ∧ s1.err = false ∧ s2.err = false ∧ s3.err = false ∧
      (s3.t = true ↔ isQuad yP.toNat = true ∨ hashScalar .challenge [s2.readF 2, s2.readF 4, s2.readF 0] = 0)
end

