-- ==== Sys2Proof/Laws/Bytes.lean ====
section
/-! SUPPORT. Words and bytes of a 256-bit value (20_memory.md R66, 00_scope.md R14). -/

namespace Sys2Proof.Machine

theorem wordShift_le (j : WordIdx) : wordShift j + 32 ≤ 256 := by
  unfold wordShift
  omega

/-- R66: word j as an integer. -/
theorem getWord_eq (v : U256) (j : WordIdx) : getWord v j = BitVec.ofNat 32 (v.toNat / 2 ^ (224 - 32 * j.val)) := by
  apply BitVec.eq_of_toNat_eq
  simp [getWord, wordShift, BitVec.extractLsb'_toNat, Nat.shiftRight_eq_div_pow]

/-- R66: bit b of word j. -/
theorem getWord_getLsbD (v : U256) (j : WordIdx) {b : Nat} (h : b < 32) :
    (getWord v j).getLsbD b = v.getLsbD (wordShift j + b) := by
  simp [getWord, h]

/-- R63, R66: a word write replaces 32 bits and keeps the other 224. -/
theorem setWord_getLsbD (v : U256) (j : WordIdx) (x : U32) {b : Nat} (h : b < 256) :
    (setWord v j x).getLsbD b =
      if wordShift j ≤ b ∧ b < wordShift j + 32 then x.getLsbD (b - wordShift j) else v.getLsbD b := by
  have mask : (0xFFFFFFFF#256 : U256).getLsbD (b - wordShift j) = decide (b - wordShift j < 32) := by
    have e : (0xFFFFFFFF#256 : U256) = (BitVec.allOnes 32).setWidth 256 := by decide
    rw [e, BitVec.getLsbD_setWidth, BitVec.getLsbD_allOnes]
    have : b - wordShift j < 256 := by omega
    simp [this]
  simp only [setWord, BitVec.getLsbD_or, BitVec.getLsbD_and, BitVec.getLsbD_not, BitVec.getLsbD_shiftLeft, mask,
    BitVec.getLsbD_setWidth, h, decide_true, Bool.true_and]
  have lt : b - wordShift j < 256 := by omega
  simp only [lt, decide_true, Bool.true_and]
  by_cases below : b < wordShift j
  · have out : ¬(wordShift j ≤ b ∧ b < wordShift j + 32) := by omega
    simp [below, out]
  · by_cases inside : b - wordShift j < 32
    · have yes : wordShift j ≤ b ∧ b < wordShift j + 32 := by omega
      simp [below, inside, yes]
    · have out : ¬(wordShift j ≤ b ∧ b < wordShift j + 32) := by omega
      have past : x.getLsbD (b - wordShift j) = false := BitVec.getLsbD_of_ge _ _ (by omega)
      simp [below, inside, out, past]

/-- A word reads back as it was written, and the other words are as before (R63, R66). -/
theorem getWord_setWord (v : U256) (i j : WordIdx) (x : U32) :
    getWord (setWord v j x) i = if i = j then x else getWord v i := by
  apply BitVec.eq_of_getLsbD_eq
  intro b hb
  have hi := wordShift_le i
  rw [getWord_getLsbD _ _ hb, setWord_getLsbD _ _ _ (by omega)]
  by_cases e : i = j
  · subst e
    have yes : wordShift i ≤ wordShift i + b ∧ wordShift i + b < wordShift i + 32 := by omega
    rw [if_pos yes, if_pos rfl, Nat.add_sub_cancel_left]
  · have ne : i.val ≠ j.val := fun h => e (Fin.ext h)
    have out : ¬(wordShift j ≤ wordShift i + b ∧ wordShift i + b < wordShift j + 32) := by
      unfold wordShift
      omega
    rw [if_neg out, if_neg e, getWord_getLsbD _ _ hb]

/-- A 256-bit value is its eight words. -/
theorem ext_getWord {v w : U256} (h : ∀ j, getWord v j = getWord w j) : v = w := by
  apply BitVec.eq_of_getLsbD_eq
  intro b hb
  have k : 7 - b / 32 < 8 := by omega
  have e : wordShift ⟨7 - b / 32, k⟩ + b % 32 = b := by
    unfold wordShift
    simp only
    omega
  have := congrArg (fun u : U32 => u.getLsbD (b % 32)) (h ⟨7 - b / 32, k⟩)
  simp only [getWord_getLsbD _ _ (Nat.mod_lt b (by decide : 0 < 32)), e] at this
  exact this

@[simp] theorem bytes32_length (v : U256) : (bytes32 v).length = 32 := by simp [bytes32]

@[simp] theorem bytes4_length (w : U32) : (bytes4 w).length = 4 := rfl

end Sys2Proof.Machine
end

