-- ==== Sys2Proof/Laws/State.lean ====
section
/-! SUPPORT. The small lemmas of the state: every field after every update, reads after writes, and the fields after reset. -/

namespace Sys2Proof.Machine

@[simp] theorem State.writeF_f (s : State) (r : FReg) (v : U256) : (s.writeF r v).f = s.f.set r v := rfl
@[simp] theorem State.writeF_p (s : State) (r : FReg) (v : U256) : (s.writeF r v).p = s.p := rfl
@[simp] theorem State.writeF_t (s : State) (r : FReg) (v : U256) : (s.writeF r v).t = s.t := rfl
@[simp] theorem State.writeF_cmdreg (s : State) (r : FReg) (v : U256) : (s.writeF r v).cmdreg = s.cmdreg := rfl
@[simp] theorem State.writeF_busy (s : State) (r : FReg) (v : U256) : (s.writeF r v).busy = s.busy := rfl
@[simp] theorem State.writeF_done (s : State) (r : FReg) (v : U256) : (s.writeF r v).done = s.done := rfl
@[simp] theorem State.writeF_err (s : State) (r : FReg) (v : U256) : (s.writeF r v).err = s.err := rfl
@[simp] theorem State.writeF_errcode (s : State) (r : FReg) (v : U256) : (s.writeF r v).errcode = s.errcode := rfl
@[simp] theorem State.writeF_agenda (s : State) (r : FReg) (v : U256) : (s.writeF r v).agenda = s.agenda := rfl
@[simp] theorem State.writeF_response (s : State) (r : FReg) (v : U256) : (s.writeF r v).response = s.response := rfl
@[simp] theorem State.writeF_freeReads (s : State) (r : FReg) (v : U256) : (s.writeF r v).freeReads = s.freeReads := rfl

@[simp] theorem State.writeP_f (s : State) (r : PReg) (q : Point) : (s.writeP r q).f = s.f := rfl
@[simp] theorem State.writeP_p (s : State) (r : PReg) (q : Point) : (s.writeP r q).p = s.p.set r q := rfl
@[simp] theorem State.writeP_t (s : State) (r : PReg) (q : Point) : (s.writeP r q).t = s.t := rfl
@[simp] theorem State.writeP_cmdreg (s : State) (r : PReg) (q : Point) : (s.writeP r q).cmdreg = s.cmdreg := rfl
@[simp] theorem State.writeP_busy (s : State) (r : PReg) (q : Point) : (s.writeP r q).busy = s.busy := rfl
@[simp] theorem State.writeP_done (s : State) (r : PReg) (q : Point) : (s.writeP r q).done = s.done := rfl
@[simp] theorem State.writeP_err (s : State) (r : PReg) (q : Point) : (s.writeP r q).err = s.err := rfl
@[simp] theorem State.writeP_errcode (s : State) (r : PReg) (q : Point) : (s.writeP r q).errcode = s.errcode := rfl
@[simp] theorem State.writeP_agenda (s : State) (r : PReg) (q : Point) : (s.writeP r q).agenda = s.agenda := rfl
@[simp] theorem State.writeP_response (s : State) (r : PReg) (q : Point) : (s.writeP r q).response = s.response := rfl
@[simp] theorem State.writeP_freeReads (s : State) (r : PReg) (q : Point) : (s.writeP r q).freeReads = s.freeReads := rfl

@[simp] theorem State.setT_f (s : State) (b : Bool) : (s.setT b).f = s.f := rfl
@[simp] theorem State.setT_p (s : State) (b : Bool) : (s.setT b).p = s.p := rfl
@[simp] theorem State.setT_t (s : State) (b : Bool) : (s.setT b).t = b := rfl
@[simp] theorem State.setT_cmdreg (s : State) (b : Bool) : (s.setT b).cmdreg = s.cmdreg := rfl
@[simp] theorem State.setT_busy (s : State) (b : Bool) : (s.setT b).busy = s.busy := rfl
@[simp] theorem State.setT_done (s : State) (b : Bool) : (s.setT b).done = s.done := rfl
@[simp] theorem State.setT_err (s : State) (b : Bool) : (s.setT b).err = s.err := rfl
@[simp] theorem State.setT_errcode (s : State) (b : Bool) : (s.setT b).errcode = s.errcode := rfl
@[simp] theorem State.setT_agenda (s : State) (b : Bool) : (s.setT b).agenda = s.agenda := rfl
@[simp] theorem State.setT_response (s : State) (b : Bool) : (s.setT b).response = s.response := rfl
@[simp] theorem State.setT_freeReads (s : State) (b : Bool) : (s.setT b).freeReads = s.freeReads := rfl

@[simp] theorem State.takeError_f (s : State) (e : CmdError) : (s.takeError e).f = s.f := rfl
@[simp] theorem State.takeError_p (s : State) (e : CmdError) : (s.takeError e).p = s.p := rfl
@[simp] theorem State.takeError_t (s : State) (e : CmdError) : (s.takeError e).t = s.t := rfl
@[simp] theorem State.takeError_cmdreg (s : State) (e : CmdError) : (s.takeError e).cmdreg = s.cmdreg := rfl
@[simp] theorem State.takeError_busy (s : State) (e : CmdError) : (s.takeError e).busy = false := rfl
@[simp] theorem State.takeError_done (s : State) (e : CmdError) : (s.takeError e).done = true := rfl
@[simp] theorem State.takeError_err (s : State) (e : CmdError) : (s.takeError e).err = true := rfl
@[simp] theorem State.takeError_errcode (s : State) (e : CmdError) : (s.takeError e).errcode = e.code := rfl
@[simp] theorem State.takeError_agenda (s : State) (e : CmdError) : (s.takeError e).agenda = s.agenda := rfl
@[simp] theorem State.takeError_response (s : State) (e : CmdError) : (s.takeError e).response = s.response := rfl
@[simp] theorem State.takeError_freeReads (s : State) (e : CmdError) : (s.takeError e).freeReads = s.freeReads := rfl

@[simp] theorem State.clearError_f (s : State) : (s.clearError).f = s.f := rfl
@[simp] theorem State.clearError_p (s : State) : (s.clearError).p = s.p := rfl
@[simp] theorem State.clearError_t (s : State) : (s.clearError).t = s.t := rfl
@[simp] theorem State.clearError_cmdreg (s : State) : (s.clearError).cmdreg = s.cmdreg := rfl
@[simp] theorem State.clearError_busy (s : State) : (s.clearError).busy = s.busy := rfl
@[simp] theorem State.clearError_done (s : State) : (s.clearError).done = s.done := rfl
@[simp] theorem State.clearError_err (s : State) : (s.clearError).err = false := rfl
@[simp] theorem State.clearError_errcode (s : State) : (s.clearError).errcode = 0#8 := rfl
@[simp] theorem State.clearError_agenda (s : State) : (s.clearError).agenda = s.agenda := rfl
@[simp] theorem State.clearError_response (s : State) : (s.clearError).response = s.response := rfl
@[simp] theorem State.clearError_freeReads (s : State) : (s.clearError).freeReads = s.freeReads := rfl

@[simp] theorem State.complete_f (s : State) : (s.complete).f = s.f := rfl
@[simp] theorem State.complete_p (s : State) : (s.complete).p = s.p := rfl
@[simp] theorem State.complete_t (s : State) : (s.complete).t = s.t := rfl
@[simp] theorem State.complete_cmdreg (s : State) : (s.complete).cmdreg = s.cmdreg := rfl
@[simp] theorem State.complete_busy (s : State) : (s.complete).busy = false := rfl
@[simp] theorem State.complete_done (s : State) : (s.complete).done = true := rfl
@[simp] theorem State.complete_err (s : State) : (s.complete).err = s.err := rfl
@[simp] theorem State.complete_errcode (s : State) : (s.complete).errcode = s.errcode := rfl
@[simp] theorem State.complete_agenda (s : State) : (s.complete).agenda = s.agenda := rfl
@[simp] theorem State.complete_response (s : State) : (s.complete).response = s.response := rfl
@[simp] theorem State.complete_freeReads (s : State) : (s.complete).freeReads = s.freeReads := rfl

@[simp] theorem State.accept_f (s : State) (w : U32) : (s.accept w).f = s.f := rfl
@[simp] theorem State.accept_p (s : State) (w : U32) : (s.accept w).p = s.p := rfl
@[simp] theorem State.accept_t (s : State) (w : U32) : (s.accept w).t = s.t := rfl
@[simp] theorem State.accept_cmdreg (s : State) (w : U32) : (s.accept w).cmdreg = w := rfl
@[simp] theorem State.accept_busy (s : State) (w : U32) : (s.accept w).busy = true := rfl
@[simp] theorem State.accept_done (s : State) (w : U32) : (s.accept w).done = false := rfl
@[simp] theorem State.accept_err (s : State) (w : U32) : (s.accept w).err = s.err := rfl
@[simp] theorem State.accept_errcode (s : State) (w : U32) : (s.accept w).errcode = s.errcode := rfl
@[simp] theorem State.accept_agenda (s : State) (w : U32) : (s.accept w).agenda = s.agenda := rfl
@[simp] theorem State.accept_response (s : State) (w : U32) : (s.accept w).response = s.response := rfl
@[simp] theorem State.accept_freeReads (s : State) (w : U32) : (s.accept w).freeReads = s.freeReads := rfl

@[simp] theorem State.resetBlock_f (s : State) : (s.resetBlock).f = State.reset.f := rfl
@[simp] theorem State.resetBlock_p (s : State) : (s.resetBlock).p = State.reset.p := rfl
@[simp] theorem State.resetBlock_t (s : State) : (s.resetBlock).t = State.reset.t := rfl
@[simp] theorem State.resetBlock_cmdreg (s : State) : (s.resetBlock).cmdreg = State.reset.cmdreg := rfl
@[simp] theorem State.resetBlock_busy (s : State) : (s.resetBlock).busy = State.reset.busy := rfl
@[simp] theorem State.resetBlock_done (s : State) : (s.resetBlock).done = State.reset.done := rfl
@[simp] theorem State.resetBlock_err (s : State) : (s.resetBlock).err = State.reset.err := rfl
@[simp] theorem State.resetBlock_errcode (s : State) : (s.resetBlock).errcode = State.reset.errcode := rfl
@[simp] theorem State.resetBlock_agenda (s : State) : (s.resetBlock).agenda = s.agenda := rfl
@[simp] theorem State.resetBlock_response (s : State) : (s.resetBlock).response = s.response := rfl
@[simp] theorem State.resetBlock_freeReads (s : State) : (s.resetBlock).freeReads = s.freeReads := rfl

@[simp] theorem State.tailAgenda_f (s : State) : (s.tailAgenda).f = s.f := rfl
@[simp] theorem State.tailAgenda_p (s : State) : (s.tailAgenda).p = s.p := rfl
@[simp] theorem State.tailAgenda_t (s : State) : (s.tailAgenda).t = s.t := rfl
@[simp] theorem State.tailAgenda_cmdreg (s : State) : (s.tailAgenda).cmdreg = s.cmdreg := rfl
@[simp] theorem State.tailAgenda_busy (s : State) : (s.tailAgenda).busy = s.busy := rfl
@[simp] theorem State.tailAgenda_done (s : State) : (s.tailAgenda).done = s.done := rfl
@[simp] theorem State.tailAgenda_err (s : State) : (s.tailAgenda).err = s.err := rfl
@[simp] theorem State.tailAgenda_errcode (s : State) : (s.tailAgenda).errcode = s.errcode := rfl
@[simp] theorem State.tailAgenda_agenda (s : State) : (s.tailAgenda).agenda = s.agenda.tail := rfl
@[simp] theorem State.tailAgenda_response (s : State) : (s.tailAgenda).response = s.response := rfl
@[simp] theorem State.tailAgenda_freeReads (s : State) : (s.tailAgenda).freeReads = s.freeReads := rfl

@[simp] theorem State.inFlight_f (s : State) (w : U32) : (s.inFlight w).f = s.f := rfl
@[simp] theorem State.inFlight_p (s : State) (w : U32) : (s.inFlight w).p = s.p := rfl
@[simp] theorem State.inFlight_t (s : State) (w : U32) : (s.inFlight w).t = s.t := rfl
@[simp] theorem State.inFlight_cmdreg (s : State) (w : U32) : (s.inFlight w).cmdreg = w := rfl
@[simp] theorem State.inFlight_busy (s : State) (w : U32) : (s.inFlight w).busy = true := rfl
@[simp] theorem State.inFlight_done (s : State) (w : U32) : (s.inFlight w).done = false := rfl
@[simp] theorem State.inFlight_err (s : State) (w : U32) : (s.inFlight w).err = s.err := rfl
@[simp] theorem State.inFlight_errcode (s : State) (w : U32) : (s.inFlight w).errcode = s.errcode := rfl
@[simp] theorem State.inFlight_agenda (s : State) (w : U32) : (s.inFlight w).agenda = .engine :: s.agenda := rfl
@[simp] theorem State.inFlight_response (s : State) (w : U32) : (s.inFlight w).response = s.response := rfl
@[simp] theorem State.inFlight_freeReads (s : State) (w : U32) : (s.inFlight w).freeReads = s.freeReads := rfl

/-! ### Register reads after updates -/

@[simp] theorem State.readF_writeF_same (s : State) (r : FReg) (v : U256) : (s.writeF r v).readF r = v := by
  simp [State.readF]

theorem State.readF_writeF_ne (s : State) {r r' : FReg} (v : U256) (h : r' ≠ r) : (s.writeF r v).readF r' = s.readF r' := by
  have h' : r.val ≠ r'.val := fun e => h (Fin.ext e.symm)
  simp [State.readF, h']

theorem State.readF_writeF (s : State) (r r' : FReg) (v : U256) :
    (s.writeF r v).readF r' = if r' = r then v else s.readF r' := by
  split
  · next h => subst h; simp
  · next h => exact s.readF_writeF_ne v h

@[simp] theorem State.readP_writeP_same (s : State) (r : PReg) (q : Point) : (s.writeP r q).readP r = q := by
  simp [State.readP]

theorem State.readP_writeP_ne (s : State) {r r' : PReg} (q : Point) (h : r' ≠ r) : (s.writeP r q).readP r' = s.readP r' := by
  have h' : r.val ≠ r'.val := fun e => h (Fin.ext e.symm)
  simp [State.readP, h']

theorem State.readP_writeP (s : State) (r r' : PReg) (q : Point) :
    (s.writeP r q).readP r' = if r' = r then q else s.readP r' := by
  split
  · next h => subst h; simp
  · next h => exact s.readP_writeP_ne q h

/-- Reads depend on the register file alone. -/
theorem State.readF_congr {s t : State} (h : t.f = s.f) (r : FReg) : t.readF r = s.readF r := by simp [State.readF, h]

theorem State.readP_congr {s t : State} (h : t.p = s.p) (r : PReg) : t.readP r = s.readP r := by simp [State.readP, h]

/-- Two files that read the same at every register are the same file. -/
theorem State.f_ext {s t : State} (h : ∀ r, t.readF r = s.readF r) : t.f = s.f := by
  refine Vector.ext fun i hi => ?_
  exact h ⟨i, hi⟩

theorem State.p_ext {s t : State} (h : ∀ r, t.readP r = s.readP r) : t.p = s.p := by
  refine Vector.ext fun i hi => ?_
  exact h ⟨i, hi⟩

@[simp] theorem State.readF_writeP (s : State) (r : PReg) (q : Point) (k : FReg) : (s.writeP r q).readF k = s.readF k := rfl
@[simp] theorem State.readF_setT (s : State) (b : Bool) (k : FReg) : (s.setT b).readF k = s.readF k := rfl
@[simp] theorem State.readF_takeError (s : State) (e : CmdError) (k : FReg) : (s.takeError e).readF k = s.readF k := rfl
@[simp] theorem State.readF_clearError (s : State) (k : FReg) : (s.clearError).readF k = s.readF k := rfl
@[simp] theorem State.readF_complete (s : State) (k : FReg) : (s.complete).readF k = s.readF k := rfl
@[simp] theorem State.readF_accept (s : State) (w : U32) (k : FReg) : (s.accept w).readF k = s.readF k := rfl
@[simp] theorem State.readF_tailAgenda (s : State) (k : FReg) : (s.tailAgenda).readF k = s.readF k := rfl
@[simp] theorem State.readF_inFlight (s : State) (w : U32) (k : FReg) : (s.inFlight w).readF k = s.readF k := rfl
@[simp] theorem State.readP_writeF (s : State) (r : FReg) (v : U256) (k : PReg) : (s.writeF r v).readP k = s.readP k := rfl
@[simp] theorem State.readP_setT (s : State) (b : Bool) (k : PReg) : (s.setT b).readP k = s.readP k := rfl
@[simp] theorem State.readP_takeError (s : State) (e : CmdError) (k : PReg) : (s.takeError e).readP k = s.readP k := rfl
@[simp] theorem State.readP_clearError (s : State) (k : PReg) : (s.clearError).readP k = s.readP k := rfl
@[simp] theorem State.readP_complete (s : State) (k : PReg) : (s.complete).readP k = s.readP k := rfl
@[simp] theorem State.readP_accept (s : State) (w : U32) (k : PReg) : (s.accept w).readP k = s.readP k := rfl
@[simp] theorem State.readP_tailAgenda (s : State) (k : PReg) : (s.tailAgenda).readP k = s.readP k := rfl
@[simp] theorem State.readP_inFlight (s : State) (w : U32) (k : PReg) : (s.inFlight w).readP k = s.readP k := rfl

/-! ### The state after reset -/

@[simp] theorem State.reset_readF (r : FReg) : State.reset.readF r = 0#256 := by
  simp [State.readF, State.reset]

@[simp] theorem State.reset_readP (r : PReg) : State.reset.readP r = .inf := by
  simp [State.readP, State.reset]

@[simp] theorem State.resetBlock_readF (s : State) (r : FReg) : s.resetBlock.readF r = 0#256 := State.reset_readF r
@[simp] theorem State.resetBlock_readP (s : State) (r : PReg) : s.resetBlock.readP r = .inf := State.reset_readP r
@[simp] theorem State.reset_t : State.reset.t = false := rfl
@[simp] theorem State.reset_cmdreg : State.reset.cmdreg = 0#32 := rfl
@[simp] theorem State.reset_busy : State.reset.busy = false := rfl
@[simp] theorem State.reset_done : State.reset.done = false := rfl
@[simp] theorem State.reset_err : State.reset.err = false := rfl
@[simp] theorem State.reset_errcode : State.reset.errcode = 0#8 := rfl
@[simp] theorem State.reset_agenda : State.reset.agenda = [] := rfl
@[simp] theorem State.reset_response : State.reset.response = none := rfl
@[simp] theorem State.reset_freeReads : State.reset.freeReads = 0 := rfl

/-! ### Two writes of SIGN commute: its destinations differ -/

theorem State.writeF_comm (s : State) {r r' : FReg} (v v' : U256) (h : r ≠ r') :
    (s.writeF r v).writeF r' v' = (s.writeF r' v').writeF r v := by
  have hf : ((s.writeF r v).writeF r' v').f = ((s.writeF r' v').writeF r v).f := by
    refine State.f_ext fun k => ?_
    simp only [State.readF_writeF]
    by_cases h1 : k = r <;> by_cases h2 : k = r' <;> simp_all
  exact State.mk.injEq .. ▸ ⟨hf, rfl, rfl, rfl, rfl, rfl, rfl, rfl, rfl, rfl, rfl⟩

end Sys2Proof.Machine
end

