-- ==== Sys2Proof/Laws/Bus.lean ====
section
/-! SUPPORT. What the window does with an access, said once (20_memory.md R61 to R68). -/

namespace Sys2Proof.Machine

/-- R61: every location is mapped at its own offset. -/
@[simp] theorem locate_offsetOf (loc : Loc) : locate (offsetOf loc) = some loc := by
  cases loc with
  | cmd => rfl
  | status => rfl
  | ctrl => rfl
  | fWord i j => revert i j; decide +kernel
  | pX k j => revert k j; decide +kernel
  | pY k j => revert k j; decide +kernel
  | pInfo k => revert k; decide +kernel

/-- R60, R65 case 2: every location is aligned to 4. -/
@[simp] theorem offsetOf_aligned (loc : Loc) : (offsetOf loc).toNat % 4 = 0 := by
  cases loc with
  | cmd => rfl
  | status => rfl
  | ctrl => rfl
  | fWord i j => revert i j; decide +kernel
  | pX k j => revert k j; decide +kernel
  | pY k j => revert k j; decide +kernel
  | pInfo k => revert k; decide +kernel

/-- R61: an aligned mapped offset is the offset of its location. -/
theorem offsetOf_locate (off : BitVec 12) (loc : Loc) (h : locate off = some loc) (a : off.toNat % 4 = 0) :
    offsetOf loc = off := by
  have key : ∀ o : BitVec 12, o.toNat % 4 = 0 → ∀ l ∈ locate o, offsetOf l = o := by decide +kernel
  exact key off a loc h

/-- R65 for a word read of a mapped location: only BUSY refuses it, and not for STATUS. -/
theorem accessRefused_read (s : State) (loc : Loc) :
    accessRefused s (.read (offsetOf loc) 4) = (s.busy && loc != .status) := by
  simp [accessRefused, accessWidth, accessOffset]

/-- R65 for a word write of a mapped location. -/
theorem accessRefused_write (s : State) (loc : Loc) (v : U32) :
    accessRefused s (.write (offsetOf loc) 4 v) = (s.busy || writeRefused s loc v) := by
  simp [accessRefused, accessWidth, accessOffset]

/-- An access is answered ERROR, or is OKAY at a mapped location; nothing else happens. -/
theorem hostStep_cases (s : State) (a : Access) :
    (accessRefused s a = true ∧ hostStep s a = answerError s a) ∨
    (accessRefused s a = false ∧ ∃ loc, locate (accessOffset a) = some loc ∧ hostStep s a = answerOkay s loc a) := by
  unfold hostStep
  cases h : accessRefused s a with
  | true => exact .inl ⟨rfl, rfl⟩
  | false =>
    refine .inr ⟨rfl, ?_⟩
    cases l : locate (accessOffset a) with
    | none => simp [accessRefused, l] at h
    | some loc => exact ⟨loc, rfl, by simp⟩

theorem hostStep_refused {s : State} {a : Access} (h : accessRefused s a = true) : hostStep s a = answerError s a := by
  simp [hostStep, h]

/-- R62: a read of a mapped location changes the answer alone. -/
theorem hostStep_read {s : State} {loc : Loc} (h : (s.busy && loc != .status) = false) :
    hostStep s (.read (offsetOf loc) 4) = { s with response := some (.readOkay (readLoc s loc)) } := by
  rw [← accessRefused_read] at h
  simp [hostStep, h, accessOffset, answerOkay]

/-- R63: a write of a mapped location that is not refused. -/
theorem hostStep_write {s : State} {loc : Loc} {v : U32} (h : (s.busy || writeRefused s loc v) = false) :
    hostStep s (.write (offsetOf loc) 4 v) = { writeLoc s loc v with response := some .writeOkay } := by
  rw [← accessRefused_write] at h
  simp [hostStep, h, accessOffset, answerOkay]

/-- The answer ERROR touches the model's own two fields at most. -/
theorem answerError_eq (s : State) (a : Access) :
    ∃ r n, answerError s a = { s with response := some r, freeReads := n } := by
  cases a with
  | read off width => exact ⟨_, _, rfl⟩
  | write off width v => exact ⟨.writeError, s.freeReads, rfl⟩

/-- R37: the three effects of an accepted CTRL write. -/
theorem writeCtrl_cases (s : State) (v : U32) :
    (v.getLsbD 1 = true ∧ writeCtrl s v = s.resetBlock) ∨
    (v.getLsbD 1 = false ∧ v.getLsbD 0 = true ∧ writeCtrl s v = s.clearError) ∨
    (v.getLsbD 1 = false ∧ v.getLsbD 0 = false ∧ writeCtrl s v = s) := by
  unfold writeCtrl
  cases v.getLsbD 1 <;> cases v.getLsbD 0 <;> simp

end Sys2Proof.Machine
end

