-- ==== Sys2Proof/Laws/Decode.lean ====
section
/-! SUPPORT. The fields of the command word: putting a word together and taking it apart are inverse, and so are the two
directions of each field. -/

namespace Sys2Proof

/-- R90: the fields read from a word put together are the fields put in. -/
@[simp] theorem fieldsOf_wordOf (c : Command) : fieldsOf (wordOf c) = c := by
  obtain ⟨op, rd, ra, rb, rc, imm⟩ := c
  simp only [fieldsOf, wordOf, Command.mk.injEq]
  refine ⟨?_, ?_, ?_, ?_, ?_, ?_⟩ <;>
    (apply BitVec.eq_of_getLsbD_eq; intro i hi
     simp only [BitVec.getLsbD_extractLsb', BitVec.getLsbD_append, hi, decide_true, Bool.true_and]
     repeat (first | rw [if_neg (by omega)] | rw [if_pos (by omega)])
     congr 1; omega)

/-- R90: a word put together again from its fields is the word. -/
@[simp] theorem wordOf_fieldsOf (w : U32) : wordOf (fieldsOf w) = w := by
  simp only [fieldsOf, wordOf]
  apply BitVec.eq_of_getLsbD_eq
  intro i hi
  simp only [BitVec.getLsbD_append, BitVec.getLsbD_extractLsb']
  by_cases h0 : i < 8
  · simp [h0]
  · by_cases h1 : i - 8 < 4
    · have e : 8 + (i - 8) = i := by omega
      simp [h0, h1, e]
    · by_cases h2 : i - 8 - 4 < 4
      · have e : 12 + (i - 8 - 4) = i := by omega
        simp [h0, h1, h2, e]
      · by_cases h3 : i - 8 - 4 - 4 < 4
        · have e : 16 + (i - 8 - 4 - 4) = i := by omega
          simp [h0, h1, h2, h3, e]
        · by_cases h4 : i - 8 - 4 - 4 - 4 < 4
          · have e : 20 + (i - 8 - 4 - 4 - 4) = i := by omega
            simp [h0, h1, h2, h3, h4, e]
          · have e : 24 + (i - 8 - 4 - 4 - 4 - 4) = i := by omega
            have h5 : i - 8 - 4 - 4 - 4 - 4 < 8 := by omega
            simp [h0, h1, h2, h3, h4, h5, e]

/-- R95: a word as the sum of its fields. -/
theorem wordOf_toNat (c : Command) :
    (wordOf c).toNat = c.op.toNat * 2 ^ 24 + c.rd.toNat * 2 ^ 20 + c.ra.toNat * 2 ^ 16 + c.rb.toNat * 2 ^ 12 +
      c.rc.toNat * 2 ^ 8 + c.imm.toNat := by
  obtain ⟨op, rd, ra, rb, rc, imm⟩ := c
  have h1 := imm.isLt
  have h2 := rc.isLt
  have h3 := rb.isLt
  have h4 := ra.isLt
  have h5 := rd.isLt
  simp only [wordOf, BitVec.toNat_append]
  rw [← Nat.shiftLeft_add_eq_or_of_lt h5, ← Nat.shiftLeft_add_eq_or_of_lt h4, ← Nat.shiftLeft_add_eq_or_of_lt h3,
    ← Nat.shiftLeft_add_eq_or_of_lt h2, ← Nat.shiftLeft_add_eq_or_of_lt h1]
  simp only [Nat.shiftLeft_eq]
  omega

/-! ### Fields, from the operand and back -/

@[simp] theorem fField_fBits (r : FReg) : fField (fBits r) = r := by revert r; decide

@[simp] theorem fBits_fField (v : BitVec 4) : fBits (fField v) = v := by revert v; decide

@[simp] theorem pField_pBits (r : PReg) : pField (pBits r) = .ok r := by revert r; intro r; fin_cases r <;> rfl

@[simp] theorem modulusField_modulusBits (m : Modulus) : modulusField (modulusBits m) = .ok m := by cases m <;> rfl

@[simp] theorem tagField_tagBits (t : Tag) : tagField (tagBits t) = .ok t := by cases t <;> rfl

@[simp] theorem zeroField_zero (k : Nat) : zeroField (0#k) = .ok () := by simp [zeroField]

theorem zeroField_ok {k : Nat} {v : BitVec k} {u : Unit} (h : zeroField v = .ok u) : v = 0#k := by
  unfold zeroField at h
  split at h
  · assumption
  · cases h

theorem pField_ok {v : BitVec 4} {r : PReg} (h : pField v = .ok r) : v = pBits r := by
  unfold pField at h
  split at h
  · next lt =>
    cases h
    apply BitVec.eq_of_toNat_eq
    simp [pBits]
  · cases h

theorem modulusField_ok {v : Byte} {m : Modulus} (h : modulusField v = .ok m) : v = modulusBits m := by
  unfold modulusField at h
  split at h
  · next e => cases h; exact e
  · split at h
    · next e => cases h; exact e
    · cases h

theorem tagField_ok {v : Byte} {t : Tag} (h : tagField v = .ok t) : v = tagBits t := by
  unfold tagField at h
  split at h
  · next e => cases h; exact e
  · split at h
    · next e => cases h; exact e
    · cases h

/-! ### Fields as numbers -/

@[simp] theorem fBits_toNat (r : FReg) : (fBits r).toNat = r.val := by
  simp only [fBits, BitVec.toNat_ofNat]
  omega

@[simp] theorem pBits_toNat (r : PReg) : (pBits r).toNat = r.val := by
  simp only [pBits, BitVec.toNat_ofNat]
  omega

@[simp] theorem modulusBits_toNat (m : Modulus) : (modulusBits m).toNat = if m = .p then 0 else 1 := by
  cases m <;> rfl

@[simp] theorem tagBits_toNat (t : Tag) : (tagBits t).toNat = if t = .derive then 0 else 1 := by
  cases t <;> rfl

end Sys2Proof
end

