-- ==== Sys2Proof/Laws/Field.lean ====
section
/-! SUPPORT. One lemma per pure function of the field unit: its value as an exact integer, and its range. -/

namespace Sys2Proof.Machine

theorem fieldPrime_pos : 0 < Config.fieldPrime := by decide
theorem groupOrder_pos : 0 < Config.groupOrder := by decide
theorem groupOrder_lt_fieldPrime : Config.groupOrder < Config.fieldPrime := by decide
theorem fieldPrime_lt : Config.fieldPrime < 2 ^ 256 := by decide
theorem groupOrder_lt : Config.groupOrder < 2 ^ 256 := by decide

theorem modulusOf_pos (m : Modulus) : 0 < modulusOf m := by
  cases m
  · exact fieldPrime_pos
  · exact groupOrder_pos

theorem modulusOf_lt (m : Modulus) : modulusOf m < 2 ^ 256 := by
  cases m
  · exact fieldPrime_lt
  · exact groupOrder_lt

/-- A result below 2^256 is stored whole. -/
theorem result_toNat {v : Nat} (h : v < 2 ^ 256) : (result v).toNat = v := by
  simp only [result, BitVec.toNat_ofNat]
  exact Nat.mod_eq_of_lt h

/-! ### Addition, subtraction, multiplication -/

theorem fadd_lt {m : Nat} (a b : Nat) (h : 0 < m) : fadd m a b < m := Nat.mod_lt _ h
theorem fsub_lt {m : Nat} (a b : Nat) (h : 0 < m) : fsub m a b < m := Nat.mod_lt _ h
theorem fmul_lt {m : Nat} (a b : Nat) (h : 0 < m) : fmul m a b < m := Nat.mod_lt _ h

/-- R121: at most one subtraction of the modulus. -/
theorem fadd_eq {m a b : Nat} (ha : a < m) (hb : b < m) : fadd m a b = if a + b < m then a + b else a + b - m := by
  unfold fadd
  split
  · next h => exact Nat.mod_eq_of_lt h
  · next h => rw [Nat.mod_eq_sub_mod (by omega), Nat.mod_eq_of_lt (by omega)]

/-- R122: at most one addition of the modulus. -/
theorem fsub_eq {m a b : Nat} (ha : a < m) (hb : b < m) : fsub m a b = if b ≤ a then a - b else a + m - b := by
  unfold fsub
  rw [Nat.mod_eq_of_lt hb]
  split
  · next h => rw [Nat.mod_eq_sub_mod (by omega), Nat.mod_eq_of_lt (by omega)]; omega
  · next h => rw [Nat.mod_eq_of_lt (by omega)]; omega

/-! ### Exponentiation -/

/-- The value of `powMod` is the power, whatever the number of squarings allowed. -/
theorem powMod_eq (m a : Nat) : ∀ (k e : Nat), e < 2 ^ k → powMod m a k e = a ^ e % m
  | 0, e, h => by
    have : e = 0 := by simpa using h
    simp [powMod, this]
  | k + 1, e, h => by
    have ih := powMod_eq m a k (e / 2) (by rw [pow_succ] at h; omega)
    have square : a ^ (e / 2) % m * (a ^ (e / 2) % m) % m = a ^ (2 * (e / 2)) % m := by
      rw [← Nat.mul_mod, ← pow_add, two_mul]
    simp only [powMod, ih, square]
    split
    · next odd =>
      conv_rhs => rw [show e = 2 * (e / 2) + 1 by omega, pow_succ]
      rw [Nat.mul_mod, Nat.mod_mod, ← Nat.mul_mod]
    · next even => rw [show 2 * (e / 2) = e by omega]

/-- R124: the value of `fexp`. -/
theorem fexp_eq {e : Nat} (a : Nat) (h : e < 2 ^ 256) : fexp a e = a ^ e % Config.fieldPrime :=
  powMod_eq _ _ _ _ h

theorem powMod_lt {m : Nat} (a k e : Nat) (h : 0 < m) : powMod m a k e < m := by
  cases k with
  | zero => exact Nat.mod_lt _ h
  | succ k =>
    simp only [powMod]
    split <;> exact Nat.mod_lt _ h

theorem fexp_lt (a e : Nat) : fexp a e < Config.fieldPrime := powMod_lt _ _ _ fieldPrime_pos

/-- R125: what `finv` can answer. -/
theorem finv_cases (a : Nat) :
    (a = 0 ∧ finv a = .error .invZero) ∨ (a ≠ 0 ∧ finv a = .ok (fexp a (Config.fieldPrime - 2))) := by
  unfold finv
  split
  · next h => exact .inl ⟨h, rfl⟩
  · next h => exact .inr ⟨h, rfl⟩

/-- R126: what `fsqrt` can answer. -/
theorem fsqrt_cases (c : Nat) :
    (fmul Config.fieldPrime (rootCandidate c) (rootCandidate c) = c ∧ fsqrt c = .ok (rootCandidate c)) ∨
    (fmul Config.fieldPrime (rootCandidate c) (rootCandidate c) ≠ c ∧ fsqrt c = .error .noSqrt) := by
  simp only [fsqrt]
  split
  · next h => exact .inl ⟨h, rfl⟩
  · next h => exact .inr ⟨h, rfl⟩

theorem rootCandidate_lt (c : Nat) : rootCandidate c < Config.fieldPrime := fexp_lt _ _

/-- R128: Euler's criterion as an integer power. -/
theorem isQuad_iff (v : Nat) : isQuad v = true ↔ v ^ ((Config.fieldPrime - 1) / 2) % Config.fieldPrime = 1 := by
  rw [isQuad, beq_iff_eq, fexp_eq v (by decide)]

/-- R120: what the range check of an operand can answer. -/
theorem operandBelow_cases (m : Modulus) (v : U256) :
    (v.toNat < modulusOf m ∧ operandBelow m v = .ok v.toNat) ∨
    (modulusOf m ≤ v.toNat ∧ operandBelow m v = .error .operandRange) := by
  unfold operandBelow
  split
  · next h => exact .inr ⟨h, rfl⟩
  · next h => exact .inl ⟨by omega, rfl⟩

theorem operandBelow_ok {m : Modulus} {v : U256} (h : v.toNat < modulusOf m) : operandBelow m v = .ok v.toNat := by
  unfold operandBelow
  rw [if_neg (by omega)]

theorem operandBelow_error {m : Modulus} {v : U256} (h : modulusOf m ≤ v.toNat) :
    operandBelow m v = .error .operandRange := by
  unfold operandBelow
  rw [if_pos h]

end Sys2Proof.Machine
end

