-- ==== Sys2Proof/Laws/PrimeField.lean ====
section
/-! SUPPORT. The field unit computes in the field of `p` elements: each function of 41_field_arithmetic.md is the field's own
operation, and the curve has no point with `y = 0` (00_scope.md R12). -/

namespace Sys2Proof.Laws

open Sys2Proof.Machine

/-- The field of `p` elements. -/
abbrev Fp := ZMod Config.fieldPrime

theorem fact_fieldPrime : Fact (Nat.Prime Config.fieldPrime) := ⟨fieldPrime_prime⟩

theorem fact_groupOrder : Fact (Nat.Prime Config.groupOrder) := ⟨groupOrder_prime⟩

/-- Two naturals below p are equal if they are equal in the field. -/
theorem cast_inj {a b : Nat} (ha : a < Config.fieldPrime) (hb : b < Config.fieldPrime) : ((a : Fp) = b) ↔ a = b := by
  rw [ZMod.natCast_eq_natCast_iff, Nat.ModEq, Nat.mod_eq_of_lt ha, Nat.mod_eq_of_lt hb]

theorem cast_eq_zero {a : Nat} (ha : a < Config.fieldPrime) : ((a : Fp) = 0) ↔ a = 0 := by
  simpa using cast_inj ha fieldPrime_pos

@[simp] theorem cast_mod (a : Nat) : ((a % Config.fieldPrime : Nat) : Fp) = a := ZMod.natCast_mod a _

@[simp] theorem cast_fadd (a b : Nat) : (fadd Config.fieldPrime a b : Fp) = a + b := by
  rw [fadd, cast_mod, Nat.cast_add]

@[simp] theorem cast_fmul (a b : Nat) : (fmul Config.fieldPrime a b : Fp) = a * b := by
  rw [fmul, cast_mod, Nat.cast_mul]

@[simp] theorem cast_fsub (a b : Nat) : (fsub Config.fieldPrime a b : Fp) = a - b := by
  rw [fsub, cast_mod, Nat.cast_add, Nat.cast_sub (Nat.mod_lt _ fieldPrime_pos).le, cast_mod, ZMod.natCast_self]
  ring

theorem cast_fexp {e : Nat} (a : Nat) (h : e < 2 ^ 256) : (fexp a e : Fp) = (a : Fp) ^ e := by
  rw [fexp_eq a h, cast_mod, Nat.cast_pow]

/-- R125: `finv` answers the field's inverse. -/
theorem finv_ok {a : Nat} (ha : (a : Fp) ≠ 0) : ∃ v, finv a = .ok v ∧ v < Config.fieldPrime ∧ (v : Fp) = (a : Fp)⁻¹ := by
  have := fact_fieldPrime
  have a0 : a ≠ 0 := fun h => ha (by rw [h, Nat.cast_zero])
  refine ⟨_, by rw [finv, if_neg a0], fexp_lt _ _, ?_⟩
  rw [cast_fexp a (by decide)]
  apply eq_inv_of_mul_eq_one_left
  rw [← pow_succ]
  exact ZMod.pow_card_sub_one_eq_one ha

/-- The curve equation in the field. -/
theorem onCurve_iff (x y : Nat) : onCurve x y = true ↔ (y : Fp) ^ 2 = (x : Fp) ^ 3 + 7 := by
  rw [onCurve, beq_iff_eq, ← cast_inj (fmul_lt _ _ fieldPrime_pos) (show curveRhs x < _ from fadd_lt _ _ fieldPrime_pos)]
  simp only [curveRhs, cast_fmul, cast_fadd, Config.curveB]
  rw [show (y : Fp) * y = (y : Fp) ^ 2 by ring, show (x : Fp) * x * x = (x : Fp) ^ 3 by ring]
  norm_num

theorem two_ne_zero_fp : (2 : Fp) ≠ 0 := by
  have h := (cast_eq_zero (show 2 < Config.fieldPrime by decide)).not.2 (by decide)
  simpa using h

theorem three_ne_zero_fp : (3 : Fp) ≠ 0 := by
  have h := (cast_eq_zero (show 3 < Config.fieldPrime by decide)).not.2 (by decide)
  simpa using h

/-- `-7` is no cube modulo p (R12: no point has `y = 0`). -/
theorem cube_ne (x : Fp) : x ^ 3 + 7 ≠ 0 := by
  have := fact_fieldPrime
  intro h
  have x0 : x ≠ 0 := by
    rintro rfl
    have h7 := (cast_eq_zero (show 7 < Config.fieldPrime by decide)).not.2 (by decide)
    exact h7 (by simpa using h)
  have cube : x ^ 3 = ((Config.fieldPrime - 7 : Nat) : Fp) := by
    rw [Nat.cast_sub (by decide), ZMod.natCast_self, eq_neg_of_add_eq_zero_left h]
    simp
  have one : ((Config.fieldPrime - 7 : Nat) : Fp) ^ ((Config.fieldPrime - 1) / 3) = 1 := by
    rw [← cube, ← pow_mul, show 3 * ((Config.fieldPrime - 1) / 3) = Config.fieldPrime - 1 by decide]
    exact ZMod.pow_card_sub_one_eq_one x0
  rw [← cast_fexp _ (by decide)] at one
  have one' := (cast_inj (fexp_lt _ _) (show 1 < Config.fieldPrime by decide)).1 (one.trans Nat.cast_one.symm)
  revert one'
  decide +kernel

end Sys2Proof.Laws
end

