-- ==== Sys2Proof/Laws/Group.lean ====
section
/-! SUPPORT. The group law of 42_curve_point.md R151 is the library's group law on the Weierstrass curve `y² = x³ + 7` over
the field of p elements, and the loop of R160 is the library's multiple. -/

namespace Sys2Proof.Laws

open Sys2Proof.Machine WeierstrassCurve.Affine

/-- secp256k1 as a Weierstrass curve. -/
def secp : WeierstrassCurve.Affine Fp := ⟨0, 0, 0, 0, 7⟩

theorem secp_equation (x y : Fp) : secp.Equation x y ↔ y ^ 2 = x ^ 3 + 7 := by
  rw [equation_iff]
  simp [secp]

/-- A valid affine point as numbers. -/
theorem valid_aff {x y : U256} :
    (Point.aff x y).valid = true ↔ x.toNat < Config.fieldPrime ∧ y.toNat < Config.fieldPrime ∧
      ((y.toNat : Nat) : Fp) ^ 2 = ((x.toNat : Nat) : Fp) ^ 3 + 7 := by
  simp only [Point.valid, Bool.and_eq_true, decide_eq_true_eq, onCurve_iff, and_assoc]

/-- No point has `y = 0` (R12). -/
theorem y_ne_zero {x y : Fp} (h : y ^ 2 = x ^ 3 + 7) : y ≠ 0 := by
  have := fact_fieldPrime
  rintro rfl
  exact cube_ne x (by rw [← h]; ring)

theorem secp_nonsingular {x y : Fp} (h : y ^ 2 = x ^ 3 + 7) : secp.Nonsingular x y := by
  have := fact_fieldPrime
  rw [nonsingular_iff']
  refine ⟨(secp_equation x y).2 h, .inr ?_⟩
  simpa [secp] using ⟨two_ne_zero_fp, y_ne_zero h⟩

/-- The point of the library's curve that a valid point stands for. -/
noncomputable def toW : (q : Point) → q.valid = true → secp.Point
  | .inf, _ => 0
  | .aff _ _, h => .some _ _ (secp_nonsingular (valid_aff.1 h).2.2)

theorem toW_inf (h : Point.inf.valid = true) : toW .inf h = 0 := rfl

theorem toW_eq_zero {q : Point} (h : q.valid = true) : toW q h = 0 ↔ q = .inf := by
  cases q with
  | inf => simp [toW]
  | aff x y => simp [toW, Point.some_ne_zero]

/-- Different valid points stand for different points of the curve. -/
theorem toW_inj {q r : Point} (hq : q.valid = true) (hr : r.valid = true) : toW q hq = toW r hr ↔ q = r := by
  cases q with
  | inf => rw [toW_inf, eq_comm, toW_eq_zero, eq_comm]
  | aff x y =>
    cases r with
    | inf => rw [toW_inf, toW_eq_zero]
    | aff x' y' =>
      have a := valid_aff.1 hq
      have b := valid_aff.1 hr
      simp only [toW, Point.some.injEq, Point.aff.injEq]
      rw [cast_inj a.1 b.1, cast_inj a.2.1 b.2.1, BitVec.toNat_inj, BitVec.toNat_inj]

/-- A point given by its coordinates in the field. -/
theorem toW_aff {x y : U256} {X Y : Fp} (hX : ((x.toNat : Nat) : Fp) = X) (hY : ((y.toNat : Nat) : Fp) = Y)
    (h : (Point.aff x y).valid = true) (ns : secp.Nonsingular X Y) : toW (.aff x y) h = .some X Y ns := by
  subst hX hY
  rfl

theorem chordPoint_coords (lam x1 y1 x2 : Nat) :
    ∃ x3 y3 : U256, chordPoint lam x1 y1 x2 = .aff x3 y3 ∧
      x3.toNat < Config.fieldPrime ∧ y3.toNat < Config.fieldPrime ∧
      ((x3.toNat : Nat) : Fp) = (lam : Fp) ^ 2 - x1 - x2 ∧
      ((y3.toNat : Nat) : Fp) = (lam : Fp) * (x1 - ((x3.toNat : Nat) : Fp)) - y1 := by
  refine ⟨_, _, rfl, ?_⟩
  have small : ∀ {v : Nat}, v < Config.fieldPrime → (BitVec.ofNat 256 v).toNat = v := fun h => by
    rw [BitVec.toNat_ofNat, Nat.mod_eq_of_lt (h.trans fieldPrime_lt)]
  rw [small (fsub_lt _ _ fieldPrime_pos), small (fsub_lt _ _ fieldPrime_pos)]
  refine ⟨fsub_lt _ _ fieldPrime_pos, fsub_lt _ _ fieldPrime_pos, ?_, ?_⟩
  · simp only [cast_fsub, cast_fmul]
    ring
  · simp only [cast_fsub, cast_fmul]

theorem secp_slope_ne [DecidableEq Fp] [Fact (Nat.Prime Config.fieldPrime)] {x1 y1 x2 y2 : Fp} (h : x1 ≠ x2) :
    secp.slope x1 x2 y1 y2 = (y2 - y1) * (x2 - x1)⁻¹ := by
  rw [slope_of_X_ne h, div_eq_mul_inv, ← neg_sub y2, ← neg_sub x2, inv_neg, neg_mul_neg]

theorem secp_slope_self [DecidableEq Fp] [Fact (Nat.Prime Config.fieldPrime)] {x y : Fp} (hy : y ≠ 0) :
    secp.slope x x y y = 3 * (x * x) * (2 * y)⁻¹ := by
  have ne : y ≠ secp.negY x y := by
    simp only [negY, secp]
    intro h
    have : 2 * y = 0 := by linear_combination h
    exact (mul_ne_zero two_ne_zero_fp hy) this
  rw [slope_of_Y_ne rfl ne]
  simp only [negY, secp]
  rw [div_eq_mul_inv]
  ring

/-- R151 is the library's addition: on valid points it never fails, its result is valid, and it is the sum. -/
theorem pointAdd_toW [DecidableEq Fp] [Fact (Nat.Prime Config.fieldPrime)] {q r : Point} (hq : q.valid = true)
    (hr : r.valid = true) :
    ∃ (z : Point) (hz : z.valid = true), pointAdd q r = .ok z ∧ toW z hz = toW q hq + toW r hr := by
  cases q with
  | inf => exact ⟨r, hr, rfl, by rw [toW_inf, zero_add]⟩
  | aff x1 y1 =>
    cases r with
    | inf => exact ⟨.aff x1 y1, hq, rfl, by rw [toW_inf, add_zero]⟩
    | aff x2 y2 =>
      obtain ⟨lx1, ly1, e1⟩ := valid_aff.1 hq
      obtain ⟨lx2, ly2, e2⟩ := valid_aff.1 hr
      have negY_eq : ∀ X Y : Fp, secp.negY X Y = -Y := fun X Y => by simp [negY, secp]
      by_cases cancel : x1 = x2 ∧ y1 ≠ y2
      · obtain ⟨rfl, hy⟩ := cancel
        refine ⟨.inf, rfl, by rw [pointAdd, if_pos ⟨rfl, hy⟩], ?_⟩
        have hne : ((y1.toNat : Nat) : Fp) ≠ ((y2.toNat : Nat) : Fp) := by
          rw [Ne, cast_inj ly1 ly2, BitVec.toNat_inj]
          exact hy
        have opp : ((y1.toNat : Nat) : Fp) = -((y2.toNat : Nat) : Fp) := by
          have : (((y1.toNat : Nat) : Fp) - y2.toNat) * ((y1.toNat : Nat) + y2.toNat) = 0 := by
            linear_combination e1 - e2
          rcases mul_eq_zero.1 this with h | h
          · exact absurd (sub_eq_zero.1 h) hne
          · exact eq_neg_of_add_eq_zero_left h
        exact (Point.add_of_Y_eq rfl (by rw [negY_eq]; exact opp)).symm
      · -- cases 4 and 5: the slope is the library's
        have hxy : ¬(((x1.toNat : Nat) : Fp) = x2.toNat ∧ ((y1.toNat : Nat) : Fp) = secp.negY x2.toNat y2.toNat) := by
          rintro ⟨hx, hy⟩
          rw [cast_inj lx1 lx2, BitVec.toNat_inj] at hx
          have hyy : y1 = y2 := by
            by_contra h
            exact cancel ⟨hx, h⟩
          subst hyy
          rw [negY_eq] at hy
          have : 2 * ((y1.toNat : Nat) : Fp) = 0 := by linear_combination hy
          exact mul_ne_zero two_ne_zero_fp (y_ne_zero e1) this
        have slope : ∃ lam, additionSlope x1 y1 x2 y2 = .ok lam ∧
            (lam : Fp) = secp.slope x1.toNat x2.toNat y1.toNat y2.toNat := by
          by_cases hx : x1 = x2
          · subst hx
            have hyy : y1 = y2 := by
              by_contra h
              exact cancel ⟨rfl, h⟩
            subst hyy
            obtain ⟨v, hv, -, cv⟩ := finv_ok (a := fmul Config.fieldPrime 2 y1.toNat)
              (by rw [cast_fmul]; exact mul_ne_zero two_ne_zero_fp (y_ne_zero e1))
            refine ⟨_, by rw [additionSlope, if_pos rfl, tangentSlope, hv]; rfl, ?_⟩
            rw [secp_slope_self (y_ne_zero e1), cast_fmul, cv, cast_fmul, cast_fmul, cast_fmul]
            rfl
          · have hX : ((x1.toNat : Nat) : Fp) ≠ x2.toNat := by
              rw [Ne, cast_inj lx1 lx2, BitVec.toNat_inj]
              exact hx
            obtain ⟨v, hv, -, cv⟩ := finv_ok (a := fsub Config.fieldPrime x2.toNat x1.toNat)
              (by rw [cast_fsub]; exact sub_ne_zero.2 hX.symm)
            refine ⟨_, by rw [additionSlope, if_neg hx, chordSlope, hv]; rfl, ?_⟩
            rw [secp_slope_ne hX, cast_fmul, cv, cast_fsub, cast_fsub]
        obtain ⟨lam, hlam, clam⟩ := slope
        obtain ⟨x3, y3, hpt, lx3, ly3, cx3, cy3⟩ := chordPoint_coords lam x1.toNat y1.toNat x2.toNat
        have ns := nonsingular_add (secp_nonsingular e1) (secp_nonsingular e2) hxy
        have hX : ((x3.toNat : Nat) : Fp) =
            secp.addX x1.toNat x2.toNat (secp.slope x1.toNat x2.toNat y1.toNat y2.toNat) := by
          rw [cx3, clam]
          simp only [addX, secp]
          ring
        have hY : ((y3.toNat : Nat) : Fp) =
            secp.addY x1.toNat x2.toNat y1.toNat (secp.slope x1.toNat x2.toNat y1.toNat y2.toNat) := by
          rw [cy3, hX, clam]
          simp only [addY, negAddY, negY, secp]
          ring
        have hz : (Point.aff x3 y3).valid = true := by
          refine valid_aff.2 ⟨lx3, ly3, ?_⟩
          rw [hX, hY]
          exact (secp_equation _ _).1 ns.1
        refine ⟨.aff x3 y3, hz, ?_, ?_⟩
        · rw [pointAdd, if_neg cancel, hlam, ← hpt]
          rfl
        · rw [toW_aff hX hY hz ns]
          exact (Point.add_some hxy).symm

/-- The loop of R160: with `i` bits left it doubles the accumulator `i` times and adds the low `i` bits of k times q. -/
theorem pointMulFrom_toW [DecidableEq Fp] [Fact (Nat.Prime Config.fieldPrime)] {q : Point} (hq : q.valid = true) (k : U256) :
    ∀ (i : Nat) {r : Point} (hr : r.valid = true),
      ∃ (z : Point) (hz : z.valid = true), pointMulFrom q k i r = .ok z ∧
        toW z hz = (2 ^ i) • toW r hr + (k.toNat % 2 ^ i) • toW q hq
  | 0, r, hr => ⟨r, hr, rfl, by simp [Nat.mod_one]⟩
  | i + 1, r, hr => by
    obtain ⟨d, hd, ed, wd⟩ := pointAdd_toW hr hr
    have bit : ∃ (a : Point) (ha : a.valid = true), addIfBit (k.getLsbD i) d q = .ok a ∧
        toW a ha = toW d hd + (k.getLsbD i).toNat • toW q hq := by
      cases k.getLsbD i with
      | true =>
        obtain ⟨a, ha, ea, wa⟩ := pointAdd_toW hd hq
        exact ⟨a, ha, ea, by rw [wa]; simp⟩
      | false => exact ⟨d, hd, rfl, by simp⟩
    obtain ⟨a, ha, ea, wa⟩ := bit
    obtain ⟨z, hz, ez, wz⟩ := pointMulFrom_toW hq k i ha
    refine ⟨z, hz, ?_, ?_⟩
    · rw [pointMulFrom, ed]
      show Except.bind (addIfBit (k.getLsbD i) d q) _ = _
      rw [ea]
      exact ez
    · rw [wz, wa, wd]
      have digits : k.toNat % 2 ^ (i + 1) = 2 ^ i * (k.getLsbD i).toNat + k.toNat % 2 ^ i := by
        rw [pow_succ, Nat.mod_mul, BitVec.getLsbD, Nat.testBit_eq_decide_div_mod_eq, add_comm]
        rcases Nat.mod_two_eq_zero_or_one (k.toNat / 2 ^ i) with h | h <;> simp [h]
      rw [digits, add_smul, pow_succ, mul_smul, mul_smul, nsmul_add, ← two_nsmul, add_assoc]

/-- R160 is the library's multiple: on a valid point it never fails and its result is `k` times the point. -/
theorem pointMul_toW [DecidableEq Fp] [Fact (Nat.Prime Config.fieldPrime)] {q : Point} (hq : q.valid = true) (k : U256) :
    ∃ (z : Point) (hz : z.valid = true), pointMul q k = .ok z ∧ toW z hz = k.toNat • toW q hq := by
  obtain ⟨z, hz, ez, wz⟩ := pointMulFrom_toW hq k Config.mulIterations (show Point.inf.valid = true from rfl)
  refine ⟨z, hz, ez, ?_⟩
  rw [wz, toW_inf, nsmul_zero, zero_add, Config.mulIterations, Nat.mod_eq_of_lt k.isLt]

theorem basePoint_valid : basePoint.valid = true := by decide

/-- `point_mul(G, n) = Inf` by running the loop of R160 (R11, 95_test_vectors.md V-P-19). -/
theorem pointMul_groupOrder : pointMul basePoint (BitVec.ofNat 256 Config.groupOrder) = .ok .inf := by decide +kernel

/-- G has order n. -/
theorem basePoint_order [DecidableEq Fp] [Fact (Nat.Prime Config.fieldPrime)] :
    addOrderOf (toW basePoint basePoint_valid) = Config.groupOrder := by
  have := fact_groupOrder
  refine addOrderOf_eq_prime ?_ ?_
  · obtain ⟨z, hz, ez, wz⟩ := pointMul_toW basePoint_valid (BitVec.ofNat 256 Config.groupOrder)
    rw [pointMul_groupOrder] at ez
    obtain rfl : Point.inf = z := Except.ok.inj ez
    rw [toW_inf] at wz
    exact wz.symm
  · exact fun h => Point.noConfusion ((toW_eq_zero basePoint_valid).1 h)

end Sys2Proof.Laws
end

