-- ==== Sys2Proof/Laws/Quad.lean ====
section
/-! SUPPORT. Quadratic residues (41_field_arithmetic.md R126, R128): Euler's criterion in the field of p elements, the two roots
of a residue, and what the candidate root of R126 is. -/

namespace Sys2Proof.Laws

open Sys2Proof.Machine

theorem isQuad_iff_fp (v : Nat) : isQuad v = true ↔ (v : Fp) ^ ((Config.fieldPrime - 1) / 2) = 1 := by
  rw [isQuad, beq_iff_eq, ← cast_fexp v (by decide), ← Nat.cast_one (R := Fp), cast_inj (fexp_lt _ _) (by decide)]

/-- Euler: a nonzero element is a square if and only if its power is 1. -/
theorem isQuad_iff_isSquare {v : Nat} (hv : (v : Fp) ≠ 0) : isQuad v = true ↔ IsSquare (v : Fp) := by
  have := fact_fieldPrime
  rw [isQuad_iff_fp, ZMod.euler_criterion _ hv, show (Config.fieldPrime - 1) / 2 = Config.fieldPrime / 2 by decide]

/-- The power is 1 or -1. -/
theorem half_power {a : Fp} (ha : a ≠ 0) :
    a ^ ((Config.fieldPrime - 1) / 2) = 1 ∨ a ^ ((Config.fieldPrime - 1) / 2) = -1 := by
  have := fact_fieldPrime
  have h := ZMod.pow_div_two_eq_neg_one_or_one Config.fieldPrime ha
  rwa [show Config.fieldPrime / 2 = (Config.fieldPrime - 1) / 2 by decide] at h

/-- `(p-1)/2` is odd, so a sign goes through the power. -/
theorem half_power_neg (a : Fp) : (-a) ^ ((Config.fieldPrime - 1) / 2) = -a ^ ((Config.fieldPrime - 1) / 2) :=
  Odd.neg_pow (by decide) a

theorem one_ne_neg_one : (1 : Fp) ≠ -1 := by
  intro h
  apply two_ne_zero_fp
  linear_combination h

/-- The power of R126 of a square: its square is the operand, and it is itself a residue. -/
theorem root_power (y : Fp) :
    ((y * y) ^ ((Config.fieldPrime + 1) / 4)) * ((y * y) ^ ((Config.fieldPrime + 1) / 4)) = y * y := by
  have := fact_fieldPrime
  have e : (y * y) ^ ((Config.fieldPrime + 1) / 4) * (y * y) ^ ((Config.fieldPrime + 1) / 4) =
      y ^ Config.fieldPrime * y := by
    rw [← sq, ← pow_mul, ← sq, ← pow_mul, ← pow_succ]
    congr 1
  rw [e, ZMod.pow_card]

theorem root_residue {y : Fp} (hy : y ≠ 0) :
    ((y * y) ^ ((Config.fieldPrime + 1) / 4)) ^ ((Config.fieldPrime - 1) / 2) = 1 := by
  have := fact_fieldPrime
  have e : ((y * y) ^ ((Config.fieldPrime + 1) / 4)) ^ ((Config.fieldPrime - 1) / 2) =
      (y ^ (Config.fieldPrime - 1)) ^ ((Config.fieldPrime + 1) / 4) := by
    rw [← sq, ← pow_mul, ← pow_mul, ← pow_mul]
    congr 1
  rw [e, ZMod.pow_card_sub_one_eq_one hy, one_pow]

theorem cast_rootCandidate (c : Nat) : (rootCandidate c : Fp) = (c : Fp) ^ ((Config.fieldPrime + 1) / 4) :=
  cast_fexp c (by decide)

/-- R126: the candidate's square is the operand exactly when the operand has a root. -/
theorem rootCandidate_spec {c : Nat} (hc : c < Config.fieldPrime) :
    fmul Config.fieldPrime (rootCandidate c) (rootCandidate c) = c ↔ IsSquare (c : Fp) := by
  rw [← cast_inj (fmul_lt _ _ fieldPrime_pos) hc, cast_fmul, cast_rootCandidate]
  constructor
  · intro h
    exact ⟨_, h.symm⟩
  · rintro ⟨y, hy⟩
    rw [hy]
    exact root_power y

/-- R126: the candidate root of a nonzero square is itself a residue. -/
theorem isQuad_rootCandidate {c : Nat} (h : IsSquare (c : Fp)) (hc : (c : Fp) ≠ 0) : isQuad (rootCandidate c) = true := by
  rw [isQuad_iff_fp, cast_rootCandidate]
  obtain ⟨y, hy⟩ := h
  rw [hy]
  refine root_residue ?_
  rintro rfl
  exact hc (by simpa using hy)

/-- Squares as integers and in the field. -/
theorem isSquare_iff {c : Nat} (hc : c < Config.fieldPrime) :
    IsSquare (c : Fp) ↔ ∃ y : Nat, y * y % Config.fieldPrime = c := by
  constructor
  · intro h
    exact ⟨_, (rootCandidate_spec hc).2 h⟩
  · rintro ⟨y, hy⟩
    refine ⟨y, ?_⟩
    rw [← hy, cast_mod, Nat.cast_mul]

/-- Of a value and its negative at most one is a residue, so a residue root is unique. -/
theorem residue_root_unique {a b : Fp} (h : a ^ 2 = b ^ 2) (ha : a ^ ((Config.fieldPrime - 1) / 2) = 1)
    (hb : b ^ ((Config.fieldPrime - 1) / 2) = 1) : a = b := by
  have := fact_fieldPrime
  rcases sq_eq_sq_iff_eq_or_eq_neg.1 h with h | h
  · exact h
  · rw [h, half_power_neg, hb] at ha
    exact absurd ha.symm one_ne_neg_one

end Sys2Proof.Laws
end

