-- ==== Sys2Proof/Laws/Lift.lean ====
section
/-! SUPPORT. What decoding an x-coordinate can answer (43_encoding_xonly.md R181). -/

namespace Sys2Proof.Laws

open Sys2Proof.Machine

theorem curveRhs_lt (x : Nat) : curveRhs x < Config.fieldPrime := fadd_lt _ _ fieldPrime_pos

theorem cast_curveRhs (x : Nat) : (curveRhs x : Fp) = (x : Fp) ^ 3 + 7 := by
  simp only [curveRhs, cast_fmul, cast_fadd, Config.curveB]
  push_cast
  ring

/-- R156: `x³ + 7` reduced once. -/
theorem curveRhs_eq (x : Nat) : curveRhs x = (x * x * x + 7) % Config.fieldPrime := by
  simp only [curveRhs, fadd, fmul, Config.curveB]
  rw [Nat.add_mod, Nat.mod_mod, Nat.mul_mod, Nat.mod_mod, ← Nat.mul_mod, ← Nat.add_mod]

/-- `x³ + 7` is never 0 modulo p (R12). -/
theorem curveRhs_ne_zero (x : Nat) : (curveRhs x : Fp) ≠ 0 := by
  rw [cast_curveRhs]
  exact cube_ne _

theorem toNat_ofNat_lt {a : Nat} (h : a < Config.fieldPrime) : (BitVec.ofNat 256 a).toNat = a := by
  rw [BitVec.toNat_ofNat]
  exact Nat.mod_eq_of_lt (h.trans fieldPrime_lt)

/-- R181: out of range, no root, or the point with the residue root. -/
theorem liftX_cases (x : U256) :
    (Config.fieldPrime ≤ x.toNat ∧ liftX x = .error .pointDecode) ∨
    (x.toNat < Config.fieldPrime ∧ ¬ IsSquare (curveRhs x.toNat : Fp) ∧ liftX x = .error .pointDecode) ∨
    (x.toNat < Config.fieldPrime ∧ IsSquare (curveRhs x.toNat : Fp) ∧
      ∃ y : U256, y.toNat = rootCandidate (curveRhs x.toNat) ∧ liftX x = .ok (.aff x y) ∧ (Point.aff x y).valid = true ∧
        isQuad y.toNat = true) := by
  by_cases hx : Config.fieldPrime ≤ x.toNat
  · exact .inl ⟨hx, by rw [liftX, if_pos hx]⟩
  · refine .inr ?_
    have hx' : x.toNat < Config.fieldPrime := Nat.lt_of_not_le hx
    by_cases hs : IsSquare (curveRhs x.toNat : Fp)
    · refine .inr ⟨hx', hs, BitVec.ofNat 256 (rootCandidate (curveRhs x.toNat)), toNat_ofNat_lt (rootCandidate_lt _), ?_, ?_, ?_⟩
      · simp only [liftX]
        rw [if_neg hx, if_pos ((rootCandidate_spec (curveRhs_lt _)).2 hs)]
      · rw [valid_aff, toNat_ofNat_lt (rootCandidate_lt _)]
        refine ⟨hx', rootCandidate_lt _, ?_⟩
        rw [sq, ← cast_fmul, (rootCandidate_spec (curveRhs_lt _)).2 hs, cast_curveRhs]
      · rw [toNat_ofNat_lt (rootCandidate_lt _)]
        exact isQuad_rootCandidate hs (curveRhs_ne_zero _)
    · refine .inl ⟨hx', hs, ?_⟩
      simp only [liftX]
      rw [if_neg hx, if_neg (fun h => hs ((rootCandidate_spec (curveRhs_lt _)).1 h))]

end Sys2Proof.Laws
end

