-- ==== Sys2Proof/Laws/Ops.lean ====
section
/-! SUPPORT. One lemma per shared operation that says once everything it can do: the end of a command, the operand shapes, the
checks of the scheme. -/

namespace Sys2Proof.Machine

@[simp] theorem finish_ok (s t : State) : finish s (.ok t) = .next t.complete := rfl

@[simp] theorem finish_error (s : State) (e : CmdError) : finish s (.error e) = .next (s.takeError e) := rfl

/-- R91, R262: a command ends in exactly one of two ways. -/
theorem finish_cases {s t : State} {r : Except CmdError State} (h : finish s r = .next t) :
    (∃ e, r = .error e ∧ t = s.takeError e) ∨ (∃ u, r = .ok u ∧ t = u.complete) := by
  cases r with
  | error e => exact .inl ⟨e, rfl, by simpa using h.symm⟩
  | ok u => exact .inr ⟨u, rfl, by simpa using h.symm⟩

/-- A command always gives a next state. -/
theorem finish_next (s : State) (r : Except CmdError State) : ∃ t, finish s r = .next t := by
  cases r <;> exact ⟨_, rfl⟩

/-- The error entry written out (R262). -/
theorem State.takeError_eq (s : State) (e : CmdError) :
    s.takeError e = { s with err := true, errcode := e.code, busy := false, done := true } := rfl

/-- The completion written out (R91). -/
theorem State.complete_eq (s : State) : s.complete = { s with busy := false, done := true } := rfl

/-! ### Chains of steps that can fail -/

@[simp] theorem except_ok_bind {ε α β : Type} (a : α) (f : α → Except ε β) : (Except.ok a >>= f) = f a := rfl

@[simp] theorem except_error_bind {ε α β : Type} (e : ε) (f : α → Except ε β) :
    ((Except.error e : Except ε α) >>= f) = .error e := rfl

@[simp] theorem except_pure {ε α : Type} (a : α) : (pure a : Except ε α) = .ok a := rfl

@[simp] theorem except_throw {ε α : Type} (e : ε) : (throw e : Except ε α) = .error e := rfl

/-- What a chain of two steps can answer. -/
theorem bind_ok {ε α β : Type} {x : Except ε α} {f : α → Except ε β} {b : β} (h : (x >>= f) = .ok b) :
    ∃ a, x = .ok a ∧ f a = .ok b := by
  cases x with
  | error e => cases h
  | ok a => exact ⟨a, rfl, h⟩

theorem bind_error {ε α β : Type} {x : Except ε α} {f : α → Except ε β} {e : ε} (h : (x >>= f) = .error e) :
    x = .error e ∨ ∃ a, x = .ok a ∧ f a = .error e := by
  cases x with
  | error e' => exact .inl (by cases h; rfl)
  | ok a => exact .inr ⟨a, rfl, h⟩

/-! ### Shapes of commands -/

/-- R129 to R131: both operands below the modulus and the result written, or OPERAND_RANGE. -/
theorem binaryField_cases (op : Nat → Nat → Nat → Nat) (m : Modulus) (rd ra rb : FReg) (s : State) :
    ((s.readF ra).toNat < modulusOf m ∧ (s.readF rb).toNat < modulusOf m ∧
      binaryField op m rd ra rb s =
        .ok (s.writeF rd (result (op (modulusOf m) (s.readF ra).toNat (s.readF rb).toNat)))) ∨
    ((modulusOf m ≤ (s.readF ra).toNat ∨ modulusOf m ≤ (s.readF rb).toNat) ∧
      binaryField op m rd ra rb s = .error .operandRange) := by
  unfold binaryField
  obtain ⟨ha, ea⟩ | ⟨ha, ea⟩ := operandBelow_cases m (s.readF ra)
  · obtain ⟨hb, eb⟩ | ⟨hb, eb⟩ := operandBelow_cases m (s.readF rb)
    · exact .inl ⟨ha, hb, by rw [ea, eb]; rfl⟩
    · exact .inr ⟨.inr hb, by rw [ea, eb]; rfl⟩
  · exact .inr ⟨.inl ha, by rw [ea]; rfl⟩

@[simp] theorem storePoint_ok (rd : PReg) (q : Point) (s : State) : storePoint rd (.ok q) s = .ok (s.writeP rd q) := rfl

@[simp] theorem storePoint_error (rd : PReg) (e : CmdError) (s : State) : storePoint rd (.error e) s = .error e := rfl

@[simp] theorem coordinates_inf : coordinates .inf = .error .infinity := rfl

@[simp] theorem coordinates_aff (x y : U256) : coordinates (.aff x y) = .ok (x, y) := rfl

/-- R220, R230: what the check of a secret can answer. -/
theorem checkSecret_cases (d : U256) :
    (1 ≤ d.toNat ∧ d.toNat < Config.groupOrder ∧ checkSecret d = .ok ()) ∨
    ((d.toNat = 0 ∨ Config.groupOrder ≤ d.toNat) ∧ checkSecret d = .error .invalidSecretKey) := by
  unfold checkSecret
  split
  · next h => exact .inr ⟨h, rfl⟩
  · next h => exact .inl ⟨by omega, by omega, rfl⟩

/-- R230 step 3: what the check of the nonce can answer. -/
theorem checkNonce_cases (k : Nat) :
    (k ≠ 0 ∧ checkNonce k = .ok ()) ∨ (k = 0 ∧ checkNonce k = .error .zeroNonce) := by
  unfold checkNonce
  split
  · next h => exact .inr ⟨h, rfl⟩
  · next h => exact .inl ⟨h, rfl⟩

/-- A reduced hash is a scalar below n. -/
theorem hashScalar_lt (tag : Tag) (words : List U256) : hashScalar tag words < Config.groupOrder :=
  Nat.mod_lt _ groupOrder_pos

/-- R198: the message registers are `F[ra]` to `F[ra+cnt-1]`, lowest first. -/
theorem messageRegs_length (s : State) (ra : FReg) (cnt : Fin 16) : (messageRegs s ra cnt).length = cnt.val := by
  simp [messageRegs]

end Sys2Proof.Machine
end

