-- ==== Sys2Proof/Laws/PerInstr.lean ====
section
/-! SUPPORT. The family `OpcodeRow`, one lemma per command: its fields agree with its row of R95's table, mark by mark. -/

namespace Sys2Proof.Laws

/-- What a mark of R95 demands of a field value, the count of THASH apart. -/
def MarkHolds (f : Mark × Nat) : Prop :=
  (f.1 = .zero → f.2 = 0) ∧ (f.1 = .p → f.2 < 4) ∧ (f.1 = .select → f.2 < 2)

/-- The command has a row in the table of R95, with its mnemonic and its opcode, and every field of its encoding is as the
row's mark says (R92). -/
def OpcodeRow.Statement (i : Instr) : Prop :=
  ∃ row ∈ opTable, row.mnemonic = mnemonicOf i ∧ row.op = (commandOf i).op ∧
    ∀ f ∈ markedFields row (commandOf i), MarkHolds f

theorem markHolds_pBits (r : PReg) : MarkHolds (.p, (pBits r).toNat) := by
  revert r; unfold MarkHolds; decide

theorem markHolds_modulusBits (m : Modulus) : MarkHolds (.select, (modulusBits m).toNat) := by
  cases m <;> (unfold MarkHolds; decide)

theorem markHolds_tagBits (t : Tag) : MarkHolds (.select, (tagBits t).toNat) := by
  cases t <;> (unfold MarkHolds; decide)

theorem markHolds_zero {k : Nat} : MarkHolds (.zero, (0#k).toNat) := by
  simp [MarkHolds]

theorem markHolds_f (n : Nat) : MarkHolds (.f, n) := by
  simp [MarkHolds]

theorem markHolds_count (n : Nat) : MarkHolds (.count, n) := by
  simp [MarkHolds]

/-- A row with its five marks met. -/
theorem opcodeRow_of {i : Instr} (row : OpRow) (member : row ∈ opTable) (name : row.mnemonic = mnemonicOf i)
    (op : row.op = (commandOf i).op) (rd : MarkHolds (row.rd, (commandOf i).rd.toNat))
    (ra : MarkHolds (row.ra, (commandOf i).ra.toNat)) (rb : MarkHolds (row.rb, (commandOf i).rb.toNat))
    (rc : MarkHolds (row.rc, (commandOf i).rc.toNat)) (imm : MarkHolds (row.imm, (commandOf i).imm.toNat)) :
    OpcodeRow.Statement i :=
  ⟨row, member, name, op, by simp only [markedFields, List.forall_mem_cons]; exact ⟨rd, ra, rb, rc, imm, by simp⟩⟩

theorem OpcodeRow.nop : OpcodeRow.Statement .nop := 
  opcodeRow_of ⟨"NOP", 0x00#8, .zero, .zero, .zero, .zero, .zero⟩ (by decide) rfl rfl
    markHolds_zero markHolds_zero markHolds_zero markHolds_zero markHolds_zero

theorem OpcodeRow.fmov : ∀ (rd ra : FReg), OpcodeRow.Statement (.fmov rd ra) := fun rd ra =>
  opcodeRow_of ⟨"FMOV", 0x01#8, .f, .f, .zero, .zero, .zero⟩ (by decide) rfl rfl
    (markHolds_f _) (markHolds_f _) markHolds_zero markHolds_zero markHolds_zero

theorem OpcodeRow.fsel : ∀ (rd ra rb : FReg), OpcodeRow.Statement (.fsel rd ra rb) := fun rd ra rb =>
  opcodeRow_of ⟨"FSEL", 0x02#8, .f, .f, .f, .zero, .zero⟩ (by decide) rfl rfl
    (markHolds_f _) (markHolds_f _) (markHolds_f _) markHolds_zero markHolds_zero

theorem OpcodeRow.feq : ∀ (ra rb : FReg), OpcodeRow.Statement (.feq ra rb) := fun ra rb =>
  opcodeRow_of ⟨"FEQ", 0x03#8, .zero, .f, .f, .zero, .zero⟩ (by decide) rfl rfl
    markHolds_zero (markHolds_f _) (markHolds_f _) markHolds_zero markHolds_zero

theorem OpcodeRow.fadd : ∀ (m : Modulus) (rd ra rb : FReg), OpcodeRow.Statement (.fadd m rd ra rb) := fun m rd ra rb =>
  opcodeRow_of ⟨"FADD", 0x10#8, .f, .f, .f, .zero, .select⟩ (by decide) rfl rfl
    (markHolds_f _) (markHolds_f _) (markHolds_f _) markHolds_zero (markHolds_modulusBits m)

theorem OpcodeRow.fsub : ∀ (m : Modulus) (rd ra rb : FReg), OpcodeRow.Statement (.fsub m rd ra rb) := fun m rd ra rb =>
  opcodeRow_of ⟨"FSUB", 0x11#8, .f, .f, .f, .zero, .select⟩ (by decide) rfl rfl
    (markHolds_f _) (markHolds_f _) (markHolds_f _) markHolds_zero (markHolds_modulusBits m)

theorem OpcodeRow.fmul : ∀ (m : Modulus) (rd ra rb : FReg), OpcodeRow.Statement (.fmul m rd ra rb) := fun m rd ra rb =>
  opcodeRow_of ⟨"FMUL", 0x12#8, .f, .f, .f, .zero, .select⟩ (by decide) rfl rfl
    (markHolds_f _) (markHolds_f _) (markHolds_f _) markHolds_zero (markHolds_modulusBits m)

theorem OpcodeRow.fred : ∀ (m : Modulus) (rd ra : FReg), OpcodeRow.Statement (.fred m rd ra) := fun m rd ra =>
  opcodeRow_of ⟨"FRED", 0x13#8, .f, .f, .zero, .zero, .select⟩ (by decide) rfl rfl
    (markHolds_f _) (markHolds_f _) markHolds_zero markHolds_zero (markHolds_modulusBits m)

theorem OpcodeRow.finv : ∀ (rd ra : FReg), OpcodeRow.Statement (.finv rd ra) := fun rd ra =>
  opcodeRow_of ⟨"FINV", 0x14#8, .f, .f, .zero, .zero, .zero⟩ (by decide) rfl rfl
    (markHolds_f _) (markHolds_f _) markHolds_zero markHolds_zero markHolds_zero

theorem OpcodeRow.fexp : ∀ (rd ra rb : FReg), OpcodeRow.Statement (.fexp rd ra rb) := fun rd ra rb =>
  opcodeRow_of ⟨"FEXP", 0x15#8, .f, .f, .f, .zero, .zero⟩ (by decide) rfl rfl
    (markHolds_f _) (markHolds_f _) (markHolds_f _) markHolds_zero markHolds_zero

theorem OpcodeRow.fsqrt : ∀ (rd ra : FReg), OpcodeRow.Statement (.fsqrt rd ra) := fun rd ra =>
  opcodeRow_of ⟨"FSQRT", 0x16#8, .f, .f, .zero, .zero, .zero⟩ (by decide) rfl rfl
    (markHolds_f _) (markHolds_f _) markHolds_zero markHolds_zero markHolds_zero

theorem OpcodeRow.fisq : ∀ (ra : FReg), OpcodeRow.Statement (.fisq ra) := fun ra =>
  opcodeRow_of ⟨"FISQ", 0x17#8, .zero, .f, .zero, .zero, .zero⟩ (by decide) rfl rfl
    markHolds_zero (markHolds_f _) markHolds_zero markHolds_zero markHolds_zero

theorem OpcodeRow.pinf : ∀ (rd : PReg), OpcodeRow.Statement (.pinf rd) := fun rd =>
  opcodeRow_of ⟨"PINF", 0x20#8, .p, .zero, .zero, .zero, .zero⟩ (by decide) rfl rfl
    (markHolds_pBits rd) markHolds_zero markHolds_zero markHolds_zero markHolds_zero

theorem OpcodeRow.pldg : ∀ (rd : PReg), OpcodeRow.Statement (.pldg rd) := fun rd =>
  opcodeRow_of ⟨"PLDG", 0x21#8, .p, .zero, .zero, .zero, .zero⟩ (by decide) rfl rfl
    (markHolds_pBits rd) markHolds_zero markHolds_zero markHolds_zero markHolds_zero

theorem OpcodeRow.pmov : ∀ (rd ra : PReg), OpcodeRow.Statement (.pmov rd ra) := fun rd ra =>
  opcodeRow_of ⟨"PMOV", 0x22#8, .p, .p, .zero, .zero, .zero⟩ (by decide) rfl rfl
    (markHolds_pBits rd) (markHolds_pBits ra) markHolds_zero markHolds_zero markHolds_zero

theorem OpcodeRow.pset : ∀ (rd : PReg) (ra rb : FReg), OpcodeRow.Statement (.pset rd ra rb) := fun rd ra rb =>
  opcodeRow_of ⟨"PSET", 0x23#8, .p, .f, .f, .zero, .zero⟩ (by decide) rfl rfl
    (markHolds_pBits rd) (markHolds_f _) (markHolds_f _) markHolds_zero markHolds_zero

theorem OpcodeRow.pgetx : ∀ (rd : FReg) (ra : PReg), OpcodeRow.Statement (.pgetx rd ra) := fun rd ra =>
  opcodeRow_of ⟨"PGETX", 0x24#8, .f, .p, .zero, .zero, .zero⟩ (by decide) rfl rfl
    (markHolds_f _) (markHolds_pBits ra) markHolds_zero markHolds_zero markHolds_zero

theorem OpcodeRow.pgety : ∀ (rd : FReg) (ra : PReg), OpcodeRow.Statement (.pgety rd ra) := fun rd ra =>
  opcodeRow_of ⟨"PGETY", 0x25#8, .f, .p, .zero, .zero, .zero⟩ (by decide) rfl rfl
    (markHolds_f _) (markHolds_pBits ra) markHolds_zero markHolds_zero markHolds_zero

theorem OpcodeRow.pisinf : ∀ (ra : PReg), OpcodeRow.Statement (.pisinf ra) := fun ra =>
  opcodeRow_of ⟨"PISINF", 0x26#8, .zero, .p, .zero, .zero, .zero⟩ (by decide) rfl rfl
    markHolds_zero (markHolds_pBits ra) markHolds_zero markHolds_zero markHolds_zero

theorem OpcodeRow.plift : ∀ (rd : PReg) (ra : FReg), OpcodeRow.Statement (.plift rd ra) := fun rd ra =>
  opcodeRow_of ⟨"PLIFT", 0x27#8, .p, .f, .zero, .zero, .zero⟩ (by decide) rfl rfl
    (markHolds_pBits rd) (markHolds_f _) markHolds_zero markHolds_zero markHolds_zero

theorem OpcodeRow.padd : ∀ (rd ra rb : PReg), OpcodeRow.Statement (.padd rd ra rb) := fun rd ra rb =>
  opcodeRow_of ⟨"PADD", 0x28#8, .p, .p, .p, .zero, .zero⟩ (by decide) rfl rfl
    (markHolds_pBits rd) (markHolds_pBits ra) (markHolds_pBits rb) markHolds_zero markHolds_zero

theorem OpcodeRow.pdbl : ∀ (rd ra : PReg), OpcodeRow.Statement (.pdbl rd ra) := fun rd ra =>
  opcodeRow_of ⟨"PDBL", 0x29#8, .p, .p, .zero, .zero, .zero⟩ (by decide) rfl rfl
    (markHolds_pBits rd) (markHolds_pBits ra) markHolds_zero markHolds_zero markHolds_zero

theorem OpcodeRow.pmul : ∀ (rd ra : PReg) (rb : FReg), OpcodeRow.Statement (.pmul rd ra rb) := fun rd ra rb =>
  opcodeRow_of ⟨"PMUL", 0x2A#8, .p, .p, .f, .zero, .zero⟩ (by decide) rfl rfl
    (markHolds_pBits rd) (markHolds_pBits ra) (markHolds_f _) markHolds_zero markHolds_zero

theorem OpcodeRow.thash : ∀ (tag : Tag) (rd ra : FReg) (cnt : Fin 16), OpcodeRow.Statement (.thash tag rd ra cnt) := fun tag rd ra cnt =>
  opcodeRow_of ⟨"THASH", 0x30#8, .f, .f, .zero, .count, .select⟩ (by decide) rfl rfl
    (markHolds_f _) (markHolds_f _) markHolds_zero (markHolds_count _) (markHolds_tagBits tag)

theorem OpcodeRow.keygen : ∀ (rd ra : FReg), OpcodeRow.Statement (.keygen rd ra) := fun rd ra =>
  opcodeRow_of ⟨"KEYGEN", 0x40#8, .f, .f, .zero, .zero, .zero⟩ (by decide) rfl rfl
    (markHolds_f _) (markHolds_f _) markHolds_zero markHolds_zero markHolds_zero

theorem OpcodeRow.sign : ∀ (rd rc ra rb : FReg), OpcodeRow.Statement (.sign rd rc ra rb) := fun rd rc ra rb =>
  opcodeRow_of ⟨"SIGN", 0x41#8, .f, .f, .f, .f, .zero⟩ (by decide) rfl rfl
    (markHolds_f _) (markHolds_f _) (markHolds_f _) (markHolds_f _) markHolds_zero

theorem OpcodeRow.verify : ∀ (ra rb rc rd : FReg), OpcodeRow.Statement (.verify ra rb rc rd) := fun ra rb rc rd =>
  opcodeRow_of ⟨"VERIFY", 0x42#8, .f, .f, .f, .f, .zero⟩ (by decide) rfl rfl
    (markHolds_f _) (markHolds_f _) (markHolds_f _) (markHolds_f _) markHolds_zero

end Sys2Proof.Laws
end

