-- ==== Sys2Proof/Laws/Step.lean ====
section
/-! SUPPORT. What one step does, by the head of the agenda, and what a command can change (30_encoding.md R91, 20_memory.md
R72, R78). -/

namespace Sys2Proof.Machine

theorem step_nil {s : State} (h : s.agenda = []) : step s = engineTurn s := by simp [step, h]

theorem step_cons {s : State} {e : Event} {rest : List Event} (h : s.agenda = e :: rest) :
    step s = handle e { s with agenda := rest } := by
  simp [step, h, State.tailAgenda]

/-- The three kinds of step: an access, the engine's turn, the reset input. -/
theorem step_access {s : State} {a : Access} {rest : List Event} (h : s.agenda = .access a :: rest) :
    step s = .next (hostStep { s with agenda := rest } a) := step_cons h

theorem step_engine {s : State} {rest : List Event} (h : s.agenda = .engine :: rest) :
    step s = engineTurn { s with agenda := rest } := step_cons h

theorem step_reset {s : State} {rest : List Event} (h : s.agenda = .resetInput :: rest) :
    step s = .next (State.resetBlock { s with agenda := rest }) := step_cons h

theorem engineTurn_idle {s : State} (h : s.busy = false) : engineTurn s = .next s := by simp [engineTurn, h]

theorem engineTurn_busy {s : State} (h : s.busy = true) : engineTurn s = completion s := by simp [engineTurn, h]

theorem completion_ok {s : State} {i : Instr} (h : decode s.cmdreg = .ok i) : completion s = exec i s := by
  simp [completion, h]

theorem completion_error {s : State} {e : Illegal} (h : decode s.cmdreg = .error e) :
    completion s = .next (s.takeError .illegalCmd) := by
  simp [completion, h, finish]

/-- The state `withFetchWord` makes for a 32-bit word. -/
theorem State.withFetchWord_eq (s : State) (w : U32) : s.withFetchWord 32 w.toNat = s.inFlight w := by
  rw [State.withFetchWord, Nat.mod_eq_of_lt w.isLt, BitVec.ofNat_toNat, BitVec.setWidth_eq]

/-- Running the machine one step at a time. -/
theorem core_run_next (M : Host.Core) {s t : M.State} (k : Nat) (h : M.step s = .next t) : M.run (k + 1) s = M.run k t := by
  simp [Host.Core.run, h]

theorem run_zero (s : State) : Host.Core.run Sys2Proof.core 0 s = .next s := rfl

theorem run_succ_next {s t : State} (k : Nat) (h : step s = .next t) :
    Host.Core.run Sys2Proof.core (k + 1) s = Host.Core.run Sys2Proof.core k t := core_run_next Sys2Proof.core k h

/-- Every command is the end of some rule: its meaning is `finish` of what the rule gives. -/
theorem exec_eq_finish (i : Instr) (s : State) : ∃ r, exec i s = finish s r := by
  cases i <;>
    (simp only [exec, execNop, execFmov, execFsel, execFeq, execFadd, execFsub, execFmul, execFred, execFinv, execFexp,
      execFsqrt, execFisq, execPinf, execPldg, execPmov, execPset, execPgetx, execPgety, execPisinf, execPlift, execPadd,
      execPdbl, execPmul, execThash, execKeygen, execSign, execVerify]
     exact ⟨_, rfl⟩)

end Sys2Proof.Machine
end

