-- ==== Sys2Proof/Tests/Slice0.lean ====
section
/-! SUPPORT. Tests. Words and results are those of spec/95_test_vectors.md (the vector's id stands before the test) or follow by
hand from the rule named there. The `witness_` theorems show for each obligation that its hypotheses can be met. -/

namespace Sys2Proof.Tests

set_option Elab.async false

open Sys2Proof.Machine

/-- The reset state with some F registers loaded. -/
def loadF (l : List (FReg × U256)) : State := l.foldl (fun s x => s.writeF x.1 x.2) State.reset

/-- The reset state with some P registers loaded. -/
def loadP (l : List (PReg × Point)) : State := l.foldl (fun s x => s.writeP x.1 x.2) State.reset

/-- The state after one step that runs the command word `w`. Where the machine stopped: the state before, whose DONE is 0. -/
def after (s : State) (w : U32) : State :=
  match step (s.withFetchWord 32 w.toNat) with
  | .next t => t
  | .fault _ => s
  | .refused _ => s

/-- The state after one step in which the bus delivers an access to an otherwise quiet machine. -/
def deliver (s : State) (a : Access) : State :=
  match step { s with agenda := [.access a] } with
  | .next t => t
  | .fault _ => s
  | .refused _ => s

def p256 : U256 := BitVec.ofNat 256 Config.fieldPrime
def n256 : U256 := BitVec.ofNat 256 Config.groupOrder

/-- `2G` and `3G` (95_test_vectors.md section 2.4). -/
def twoG : Point := .aff 0xC6047F9441ED7D6D3045406E95C07CD85C778E4B8CEF3CA7ABAC09B95C709EE5#256
  0x1AE168FEA63DC339A3C58419466CEAEEF7F632653266D0E1236431A950CFE52A#256
def threeG : Point := .aff 0xF9308A019258C31049344F85F89D5229B531C845836F99B08601F113BCE036F9#256
  0x388F7B0F632DE8140FE337E62A37F3566500A99934C2231B6CB9FD7584B8E672#256
/-- `y(lift_x(1))`. -/
def yQ : U256 := 0x4218F20AE6C646B363DB68605822FB14264CA8D2587FDD6FBC750D587E76A7EE#256
/-- r and s of V-SIGN-1. -/
def rA : U256 := 0x528F745793E8472C0329742A463F59E58F3A3F1A4AC09C28F6F8514D4D0322A2#256
def sA : U256 := 0x58BD08398F82CF67B812AB2C7717CE566F877C2F8795C846146978E8F04782AE#256

/-! ### WellFormed: each check refuses an ill-formed term -/

theorem test_wf_hash_past_f15 : (Instr.thash .derive 0 15 2).wf = false := by decide
theorem test_wf_hash_up_to_f15 : (Instr.thash .derive 0 15 1).wf = true := by decide
theorem test_wf_sign_same_destination : (Instr.sign 2 2 0 1).wf = false := by decide
theorem test_wf_sign_two_destinations : (Instr.sign 2 3 0 1).wf = true := by decide

/-! ### Decoding: every constructor's word (V-ENC-1 to V-ENC-29, V-ENC-38) -/

theorem test_decode_utility :
    decode 0x00000000#32 = .ok .nop ∧ decode 0x01010000#32 = .ok (.fmov 0 1) ∧
    decode 0x02012000#32 = .ok (.fsel 0 1 2) ∧ decode 0x03012000#32 = .ok (.feq 1 2) := ⟨rfl, rfl, rfl, rfl⟩

theorem test_decode_field_arithmetic :
    decode 0x10312000#32 = .ok (.fadd .p 3 1 2) ∧ decode 0x10312001#32 = .ok (.fadd .n 3 1 2) ∧
    decode 0x11201001#32 = .ok (.fsub .n 2 0 1) ∧ decode 0x12312000#32 = .ok (.fmul .p 3 1 2) ∧
    decode 0x13010000#32 = .ok (.fred .p 0 1) ∧ decode 0x14010000#32 = .ok (.finv 0 1) ∧
    decode 0x15012000#32 = .ok (.fexp 0 1 2) ∧ decode 0x16010000#32 = .ok (.fsqrt 0 1) ∧
    decode 0x17010000#32 = .ok (.fisq 1) := ⟨rfl, rfl, rfl, rfl, rfl, rfl, rfl, rfl, rfl⟩

theorem test_decode_curve_point :
    decode 0x20200000#32 = .ok (.pinf 2) ∧ decode 0x21000000#32 = .ok (.pldg 0) ∧
    decode 0x22100000#32 = .ok (.pmov 1 0) ∧ decode 0x23112000#32 = .ok (.pset 1 1 2) ∧
    decode 0x25300000#32 = .ok (.pgety 3 0) ∧ decode 0x26000000#32 = .ok (.pisinf 0) ∧
    decode 0x28201000#32 = .ok (.padd 2 0 1) ∧ decode 0x29100000#32 = .ok (.pdbl 1 0) ∧
    decode 0x2A104000#32 = .ok (.pmul 1 0 4) := ⟨rfl, rfl, rfl, rfl, rfl, rfl, rfl, rfl, rfl⟩

theorem test_decode_encoding : decode 0x24200000#32 = .ok (.pgetx 2 0) ∧ decode 0x27010000#32 = .ok (.plift 0 1) :=
  ⟨rfl, rfl⟩

theorem test_decode_tagged_hash :
    decode 0x30580301#32 = .ok (.thash .challenge 5 8 3) ∧ decode 0x30580200#32 = .ok (.thash .derive 5 8 2) ∧
    decode 0x300F0100#32 = .ok (.thash .derive 0 15 1) := ⟨rfl, rfl, rfl⟩

theorem test_decode_signature :
    decode 0x40410000#32 = .ok (.keygen 4 1) ∧ decode 0x41201300#32 = .ok (.sign 2 3 0 1) ∧
    decode 0x42304200#32 = .ok (.verify 0 4 2 3) := ⟨rfl, rfl, rfl⟩

/-- One word of each format, field by field as R90 lays it out: op 31:24, rd 23:20, ra 19:16, rb 15:12, rc 11:8, imm 7:0. -/
theorem test_decode_written_out :
    decode (0b00010001#8 ++ 0b1111#4 ++ 0b0111#4 ++ 0b1000#4 ++ 0b0000#4 ++ 0b00000001#8) = .ok (.fsub .n 15 7 8) ∧
    decode (0b00100011#8 ++ 0b0011#4 ++ 0b1110#4 ++ 0b0001#4 ++ 0b0000#4 ++ 0b00000000#8) = .ok (.pset 3 14 1) ∧
    decode (0b00110000#8 ++ 0b1011#4 ++ 0b0001#4 ++ 0b0000#4 ++ 0b1111#4 ++ 0b00000000#8) =
      .ok (.thash .derive 11 1 15) ∧
    decode (0b01000010#8 ++ 0b1000#4 ++ 0b0001#4 ++ 0b0010#4 ++ 0b0100#4 ++ 0b00000000#8) = .ok (.verify 1 2 4 8) :=
  ⟨rfl, rfl, rfl, rfl⟩

/-- V-ENC-30 to V-ENC-37, V-ENC-39 to V-ENC-41: illegal words, each with its case of R96. -/
theorem test_decode_illegal :
    decode 0xFF000000#32 = .error .unassignedOpcode ∧ decode 0xFFFFFFFF#32 = .error .unassignedOpcode ∧
    decode 0x04000000#32 = .error .unassignedOpcode ∧ decode 0x00000001#32 = .error .unusedFieldNotZero ∧
    decode 0x28400000#32 = .error .pointRegisterAbove3 ∧ decode 0x10312002#32 = .error .modulusSelect ∧
    decode 0x30580302#32 = .error .tagSelect ∧ decode 0x300F0200#32 = .error .hashPastF15 ∧
    decode 0x41201200#32 = .error .signSameDestination ∧ decode 0x14011000#32 = .error .unusedFieldNotZero ∧
    decode 0x42304201#32 = .error .unusedFieldNotZero :=
  ⟨rfl, rfl, rfl, rfl, rfl, rfl, rfl, rfl, rfl, rfl, rfl⟩

/-- The assembler's spelling (R98; V-ENC-5, 25, 28 and 29). -/
theorem test_assembly :
    assemblyOf (.fadd .p 3 1 2) = "FADD.p F3, F1, F2" ∧ assemblyOf (.thash .challenge 5 8 3) = "THASH.C F5, F8, #3" ∧
    assemblyOf (.sign 2 3 0 1) = "SIGN F2, F3, F0, F1" ∧ assemblyOf (.verify 0 4 2 3) = "VERIFY F0, F4, F2, F3" := by
  decide +kernel

/-- R96, R262: an illegal word fails with code 0x01 and writes nothing. -/
theorem test_illegal_word : after State.reset 0xFF000000#32 =
    { State.reset with cmdreg := 0xFF000000#32, done := true, err := true, errcode := 0x01#8 } := by decide +kernel

/-! ### Utility commands -/

/-- V-U-1. -/
theorem test_nop : after State.reset 0x00000000#32 = { State.reset with done := true } := by decide +kernel
/-- V-U-2. -/
theorem test_fmov : (after (loadF [(1, 0 - 1)]) 0x01010000#32).readF 0 = 0 - 1 := by decide +kernel
/-- V-U-3. -/
theorem test_fsel_clear : (after (loadF [(1, 5), (2, 9)]) 0x02012000#32).readF 0 = 9 := by decide +kernel
/-- V-U-4. -/
theorem test_fsel_set : (after ((loadF [(1, 5), (2, 9)]).setT true) 0x02012000#32).readF 0 = 5 := by decide +kernel
/-- V-U-5. -/
theorem test_feq_equal : (after (loadF [(1, 7), (2, 7)]) 0x03012000#32).t = true := by decide +kernel
/-- V-U-6. -/
theorem test_feq_not_reduced : (after ((loadF [(1, p256)]).setT true) 0x03012000#32).t = false := by decide +kernel

/-! ### Field arithmetic -/

/-- V-F-7: aliasing, and a sum past p. -/
theorem test_fadd_alias : (after (loadF [(1, 1 <<< 255)]) 0x10111000#32).readF 1 = 0x1000003D1 := by decide +kernel
/-- V-F-5. -/
theorem test_fadd_range : statusWord (after (loadF [(1, n256)]) 0x10312001#32) = 0x00000206#32 := by decide +kernel
/-- V-F-9: operand order, and the borrow. -/
theorem test_fsub_borrow : (after (loadF [(1, 1)]) 0x11201001#32).readF 2 = n256 - 1 := by decide +kernel
/-- V-F-8. -/
theorem test_fsub_p : (after (loadF [(2, 1)]) 0x11312000#32).readF 3 = p256 - 1 := by decide +kernel
/-- V-F-15. -/
theorem test_fmul_n : (after (loadF [(1, 1 <<< 255), (2, 2)]) 0x12312001#32).readF 3 =
    0x14551231950B75FC4402DA1732FC9BEBF := by decide +kernel
/-- V-F-17: p - 1 is not below n. -/
theorem test_fmul_range : statusWord (after (loadF [(1, p256 - 1), (2, 1)]) 0x12312001#32) = 0x00000206#32 := by
  decide +kernel
/-- V-F-18. -/
theorem test_fred_p : (after (loadF [(1, 0 - 1)]) 0x13010000#32).readF 0 = 0x1000003D0 := by decide +kernel
/-- V-F-21. -/
theorem test_fred_n : (after (loadF [(1, p256)]) 0x13010001#32).readF 0 = 0x14551231950B75FC4402DA1722FC9BAEE := by
  decide +kernel
/-- V-F-24. -/
theorem test_finv : (after (loadF [(1, 2)]) 0x14010000#32).readF 0 =
    0x7FFFFFFFFFFFFFFFFFFFFFFFFFFFFFFFFFFFFFFFFFFFFFFFFFFFFFFF7FFFFE18 := by decide +kernel
/-- V-F-28: the range check comes first. -/
theorem test_finv_range : statusWord (after (loadF [(1, p256)]) 0x14010000#32) = 0x00000206#32 := by decide +kernel
/-- V-F-33: a full-width exponent. -/
theorem test_fexp : (after (loadF [(1, 7), (2, 0 - 1)]) 0x15012000#32).readF 0 =
    0xE68BD7B35DA8A6B618C982226B4FD7203604DAD5E88ADCA16F02ED0AAF9F61B1 := by decide +kernel
/-- V-F-30: 0^0 is 1. -/
theorem test_fexp_zero : (after State.reset 0x15012000#32).readF 0 = 1 := by decide +kernel
/-- V-F-38: the root that is a residue, not the small one. -/
theorem test_fsqrt : (after (loadF [(1, 9)]) 0x16010000#32).readF 0 = p256 - 3 := by decide +kernel
/-- V-F-41. -/
theorem test_fsqrt_none : statusWord (after (loadF [(1, 3)]) 0x16010000#32) = 0x00000406#32 := by decide +kernel
/-- V-F-46. -/
theorem test_fisq : (after (loadF [(1, Config.baseY)]) 0x17010000#32).t = true := by decide +kernel
/-- V-F-47: T keeps its 1 over the error. -/
theorem test_fisq_range : statusWord (after ((loadF [(1, p256)]).setT true) 0x17010000#32) = 0x0000020E#32 := by
  decide +kernel

/-! ### Curve points -/

/-- V-P-29. -/
theorem test_pinf : (after (loadP [(0, basePoint)]) 0x20000000#32).readP 0 = .inf := by decide +kernel
/-- V-P-2. -/
theorem test_pldg : (after State.reset 0x21000000#32).readP 0 = .aff Config.baseX Config.baseY := by decide +kernel
/-- V-P-30. -/
theorem test_pmov : (after (loadP [(0, threeG)]) 0x22100000#32).readP 1 = threeG := by decide +kernel
/-- V-P-24. -/
theorem test_pset : (after (loadF [(1, 1), (2, yQ)]) 0x23112000#32).readP 1 = .aff 1 yQ := by decide +kernel
/-- V-P-26. -/
theorem test_pset_off_curve : statusWord (after (loadF [(1, 1), (2, 1)]) 0x23012000#32) = 0x00000606#32 := by
  decide +kernel
/-- V-P-3. -/
theorem test_pgety : (after (loadP [(0, basePoint)]) 0x25300000#32).readF 3 = Config.baseY := by decide +kernel
/-- V-P-5. -/
theorem test_pgety_inf : statusWord (after State.reset 0x25000000#32) = 0x00000706#32 := by decide +kernel
/-- V-P-1. -/
theorem test_pisinf : (after State.reset 0x26000000#32).t = true := by decide +kernel
/-- V-P-7. -/
theorem test_padd : (after (loadP [(0, basePoint), (1, twoG)]) 0x28201000#32).readP 2 = threeG := by decide +kernel
/-- V-P-9: opposite points. -/
theorem test_padd_opposite :
    (after (loadP [(0, basePoint), (1, .aff Config.baseX (p256 - Config.baseY)), (2, basePoint)]) 0x28201000#32).readP 2 =
      .inf := by decide +kernel
/-- V-P-6. -/
theorem test_pdbl : (after (loadP [(0, basePoint)]) 0x29100000#32).readP 1 = twoG := by decide +kernel
/-- V-P-16. -/
theorem test_pmul : ((after ((loadP [(0, basePoint)]).writeF 4 7) 0x2A104000#32).readP 1) =
    .aff 0x5CBDF0646E5DB4EAA398F365F2EA7A0E3D419B7E0330E39CE92BDDEDCAC4F9BC#256
      0x6AEBCA40BA255960A3178D6D861A54DBA813D0B813FDE7B5A5082628087264DA#256 := by decide +kernel
/-- V-P-23. -/
theorem test_pmul_inf : (after (loadF [(4, 5)]) 0x2A104000#32).readP 1 = .inf := by decide +kernel

/-! ### X-only encoding -/

/-- V-X-6: the residue root, so -3G and not 3G. -/
theorem test_plift :
    (after (loadF [(1, 0xF9308A019258C31049344F85F89D5229B531C845836F99B08601F113BCE036F9)]) 0x27010000#32).readP 0 =
      .aff 0xF9308A019258C31049344F85F89D5229B531C845836F99B08601F113BCE036F9#256
        0xC77084F09CD217EBF01CC819D5C80CA99AFF5666CB3DDCE4934602897B4715BD#256 := by decide +kernel
/-- V-X-11: out of range, although 1 is an x-coordinate. -/
theorem test_plift_range : statusWord (after (loadF [(1, p256 + 1)]) 0x27010000#32) = 0x00000506#32 := by decide +kernel
/-- V-P-3. -/
theorem test_pgetx : (after (loadP [(0, basePoint)]) 0x24200000#32).readF 2 = Config.baseX := by decide +kernel
/-- V-P-4. -/
theorem test_pgetx_inf : statusWord (after State.reset 0x24000000#32) = 0x00000706#32 := by decide +kernel

/-! ### Hash, keys, signatures -/

/-- V-H-9. -/
theorem test_thash_derive : (after (loadF [(8, 1)]) 0x30580200#32).readF 5 =
    0xDE2B58FF3B8B5D424A64529BFE10F87D35D5C3322A0C7F592CF30D4DF9BBDD0C := by decide +kernel
/-- V-H-10. -/
theorem test_thash_challenge : (after (loadF [(8, rA), (9, Config.baseX)]) 0x30B80301#32).readF 11 =
    0x36E86138CB0E2CAA0276FDC87528C6D4EAAE627B0259A763818A27AA19CD1E79 := by decide +kernel
/-- V-KEYGEN-4. -/
theorem test_keygen : (after (loadF [(1, 3)]) 0x40410000#32).readF 4 =
    0xF9308A019258C31049344F85F89D5229B531C845836F99B08601F113BCE036F9 := by decide +kernel
/-- V-KEYGEN-6. -/
theorem test_keygen_range : statusWord (after (loadF [(1, n256)]) 0x40410000#32) = 0x00000806#32 := by decide +kernel
/-- V-SIGN-1: r and s. -/
theorem test_sign : sign 0 1 = .ok (rA, sA) := by decide +kernel
/-- V-SIGN-6. -/
theorem test_sign_range : after (loadF [(2, 5)]) 0x41201300#32 =
    { loadF [(2, 5)] with cmdreg := 0x41201300#32, done := true, err := true, errcode := 0x08#8 } := by decide +kernel
/-- V-VERIFY-1. -/
theorem test_verify : (after (loadF [(4, Config.baseX), (2, rA), (3, sA)]) 0x42304200#32).t = true := by decide +kernel
/-- V-VERIFY-2: r not below p is the answer 0, no error. -/
theorem test_verify_range :
    statusWord (after ((loadF [(4, Config.baseX), (2, p256), (3, sA)]).setT true) 0x42304200#32) = 0x00000002#32 := by
  decide +kernel

/-! ### The register window (95_test_vectors.md section 2.2) -/

/-- V-BUS-3: CTRL reads 0. -/
theorem test_bus_ctrl_reads_zero : (deliver State.reset (.read 0x008#12 4)).response = some (.readOkay 0#32) := by decide
/-- V-BUS-9: INFO of infinity. -/
theorem test_bus_info : (deliver State.reset (.read 0x840#12 4)).response = some (.readOkay 1#32) := by decide +kernel
/-- V-BUS-4, 5, 6, 7, 8, 15: unmapped, misaligned, narrow, read-only twice, reserved bit. -/
theorem test_bus_refused :
    accessRefused State.reset (.read 0x00C#12 4) = true ∧ accessRefused State.reset (.read 0x402#12 4) = true ∧
    accessRefused State.reset (.read 0x400#12 1) = true ∧ accessRefused State.reset (.write 0x004#12 4 0#32) = true ∧
    accessRefused State.reset (.write 0x800#12 4 0#32) = true ∧ accessRefused State.reset (.write 0x008#12 4 4#32) = true := by
  decide
/-- V-BUS-14: word 0 is the most significant, word 7 the least. -/
theorem test_bus_field_words :
    (deliver (deliver State.reset (.write 0x420#12 4 0x01020304#32)) (.write 0x43C#12 4 0xAABBCCDD#32)).readF 1 =
      0x01020304000000000000000000000000000000000000000000000000AABBCCDD#256 := by decide +kernel
/-- V-BUS-17 and V-BUS-18: the accepted command is in flight, and STATUS reads BUSY. -/
theorem test_bus_command_in_flight :
    (deliver (deliver State.reset (.write 0x000#12 4 0x21000000#32)) (.read 0x004#12 4)).response =
      some (.readOkay 0x00000001#32) := by decide +kernel
/-- V-BUS-21: P0 X word 7 after PLDG. -/
theorem test_bus_point_word : (deliver (after State.reset 0x21000000#32) (.read 0x81C#12 4)).response =
    some (.readOkay 0x16F81798#32) := by decide +kernel
/-- V-BUS-25: SRST wins over CLRERR. -/
theorem test_bus_soft_reset : deliver (loadF [(1, 7)]) (.write 0x008#12 4 3#32) =
    { State.reset with response := some .writeOkay } := by decide +kernel
/-- Program 4, steps 2, 3 and 5: with an error standing CMD is refused; CLRERR keeps DONE. -/
theorem test_bus_error_stands :
    accessRefused (after State.reset 0x40310000#32) (.write 0x000#12 4 0#32) = true ∧
    statusWord (deliver (after State.reset 0x40310000#32) (.write 0x008#12 4 1#32)) = 0x00000002#32 := by decide +kernel

/-! ### Witnesses: for each obligation with hypotheses, a state and operands that meet them together, clause by clause -/

/-- A state with a command in flight. -/
def flying (w : U32) : State := { State.reset with cmdreg := w, busy := true }

/-- A state with an error standing. -/
def failed : State := { State.reset with done := true, err := true, errcode := 0x09#8 }

theorem witness_ResetLeavesTheStatedValues_input :
    ({ flying 7#32 with agenda := [.resetInput, .engine] }).agenda = .resetInput :: [.engine] := rfl
theorem witness_ResetLeavesTheStatedValues_soft :
    failed.busy = false ∧ (2#32).getLsbD 1 = true ∧ (2#32).extractLsb' 2 30 = 0#30 ∧
    (3#32).getLsbD 1 = true ∧ (3#32).extractLsb' 2 30 = 0#30 := by decide
theorem witness_DecodeInvertsEncode :
    (Instr.thash .challenge 15 15 1).wf = true ∧ (Instr.thash .derive 15 1 15).wf = true ∧
    (Instr.sign 15 14 15 15).wf = true ∧ (Instr.padd 3 3 3).wf = true := by decide
theorem witness_EncodeInvertsDecode : decode 0x30FF0101#32 = .ok (.thash .challenge 15 15 1) := rfl
theorem witness_StepRunsTheDecodedCommand_idle :
    (flying 0x21000000#32).busy = true ∧ decode (flying 0x21000000#32).cmdreg = .ok (.pldg 0) ∧
    (flying 0x21000000#32).agenda = [] := ⟨rfl, rfl, rfl⟩
theorem witness_StepRunsTheDecodedCommand_event :
    ({ flying 0x22300000#32 with agenda := [.engine] }).busy = true ∧
    decode ({ flying 0x22300000#32 with agenda := [.engine] }).cmdreg = .ok (.pmov 3 0) ∧
    ({ flying 0x22300000#32 with agenda := [.engine] }).agenda = .engine :: [] := ⟨rfl, rfl, rfl⟩
theorem witness_StepRunsTheDecodedCommand_placed : decode 0x42FFFF00#32 = .ok (.verify 15 15 15 15) := rfl
theorem witness_IllegalWordsFailWithIllegalCmd :
    State.reset.err = false ∧ legal 0x43000000#32 = false ∧ legal 0x42000000#32 = true := by decide +kernel
theorem witness_CommandWriteThenEngineRunsTheCommand :
    State.reset.busy = false ∧ State.reset.err = false ∧ decode 0x00000000#32 = .ok .nop ∧
    ({ State.reset with agenda := [.access (.write 0x000#12 4 0#32), .engine] }).agenda =
      .access (.write 0x000#12 4 0#32) :: .engine :: [] := ⟨rfl, rfl, rfl, rfl⟩
theorem witness_ErrorCodesAreTheListedOnes :
    ∃ t, (Instr.keygen 4 1).wf = true ∧ (flying 0x40410000#32).err = false ∧
      exec (.keygen 4 1) (flying 0x40410000#32) = .next t ∧ t.err = true := ⟨_, rfl, rfl, rfl, rfl⟩
/-- Two states that differ in a register FADD does not name, and in T. -/
theorem witness_SourcesDetermineTheEffect :
    ∃ t t', State.reset.err = false ∧ ((loadF [(5, 1)]).setT true).err = false ∧
      (∀ r ∈ readsF (.fadd .p 3 1 2), ((loadF [(5, 1)]).setT true).readF r = State.reset.readF r) ∧
      (∀ k ∈ readsP (.fadd .p 3 1 2), ((loadF [(5, 1)]).setT true).readP k = State.reset.readP k) ∧
      (readsT (.fadd .p 3 1 2) = true → ((loadF [(5, 1)]).setT true).t = State.reset.t) ∧
      exec (.fadd .p 3 1 2) State.reset = .next t ∧
      exec (.fadd .p 3 1 2) ((loadF [(5, 1)]).setT true) = .next t' :=
  ⟨_, _, rfl, rfl, by decide +kernel, by decide +kernel, by decide, rfl, rfl⟩
theorem witness_PendingAccessesNeverChangeAResult : (flying 0x10312000#32).busy = true := rfl
theorem witness_AcceptedCommandsFinish_finishes :
    ({ flying 0#32 with agenda := [.access (.read 0x004#12 4), .engine] }).busy = true ∧
    Event.resetInput ∉ ({ flying 0#32 with agenda := [.access (.read 0x004#12 4), .engine] }).agenda := by decide
theorem witness_AcceptedCommandsFinish_reset :
    ({ flying 0#32 with agenda := [.resetInput, .engine] }).busy = true := rfl
theorem witness_WindowStartsAtBase : Config.base + 4096 ≤ Config.base + 4096 := Nat.le_refl _
theorem witness_RefusedAccessesChangeNothing :
    accessRefused failed (.write 0x000#12 4 0#32) = true ∧ accessRefused failed (.read 0xFFC#12 4) = true ∧
    accessRefused (flying 0#32) (.read 0x000#12 4) = true ∧ accessRefused (flying 0#32) (.write 0x008#12 4 2#32) = true := by
  decide
theorem witness_ReadsReturnTheMappedWord :
    (loadP [(3, basePoint)]).busy = false ∧ (loadP [(3, basePoint)]).readP 3 = .aff Config.baseX Config.baseY ∧
    (loadP [(3, basePoint)]).readP 0 = .inf := by decide +kernel
theorem witness_FieldWordWritesReplaceOneWord : failed.busy = false := rfl
theorem witness_EightWordWritesLoadARegister : (loadF [(15, 0 - 1)]).busy = false := rfl
theorem witness_CommandWriteStartsTheEngine : State.reset.busy = false ∧ State.reset.err = false := ⟨rfl, rfl⟩
theorem witness_ControlWriteEffects_reserved :
    failed.busy = false ∧ (∃ b : Fin 32, 2 ≤ b.val ∧ (4#32).getLsbD b = true) ∧
    (∃ b : Fin 32, 2 ≤ b.val ∧ (0x80000003#32).getLsbD b = true) := by decide +kernel
theorem witness_ControlWriteEffects_accepted :
    failed.busy = false ∧ ((2#32 : U32) = 2#32 ∨ (2#32 : U32) = 3#32) ∧ ((3#32 : U32) = 2#32 ∨ (3#32 : U32) = 3#32) := by
  decide
theorem witness_ControlWriteEffects_busy : (flying 0#32).busy = true := rfl
theorem witness_NoCommandIsAcceptedWhileAnErrorStands :
    failed.err = true ∧ failed.busy = false ∧ ((2#32 : U32) = 2#32 ∨ (2#32 : U32) = 3#32) ∧
    ((3#32 : U32) = 2#32 ∨ (3#32 : U32) = 3#32) ∧ (∃ b : Fin 32, 2 ≤ b.val ∧ (4#32).getLsbD b = true) ∧
    (∃ b : Fin 32, 2 ≤ b.val ∧ (0x80000001#32).getLsbD b = true) := by decide +kernel
theorem witness_NoCommandIsAcceptedWhileAnErrorStands_step :
    ∃ t, step { failed with agenda := [.engine] } = .next t ∧ t.err = true := ⟨_, rfl, rfl⟩
theorem witness_OnlyStatusIsReadableWhileBusy : (flying 0xFFFFFFFF#32).busy = true := rfl
/-- All four combinations of R270, each with its step. -/
theorem witness_StepsKeepTheStatusMachine :
    (statusOk State.reset = true ∧ ∃ t, step State.reset = .next t) ∧
    (statusOk (flying 0#32) = true ∧ ∃ t, step (flying 0#32) = .next t) ∧
    (statusOk { State.reset with done := true } = true ∧ ∃ t, step { State.reset with done := true } = .next t) ∧
    (statusOk failed = true ∧ ∃ t, step failed = .next t) :=
  ⟨⟨rfl, _, rfl⟩, ⟨rfl, _, rfl⟩, ⟨rfl, _, rfl⟩, ⟨rfl, _, rfl⟩⟩
theorem witness_StepsKeepEveryPointRegisterOnTheCurve :
    PointsOk (flying 0x21000000#32) ∧ ∃ t, step (flying 0x21000000#32) = .next t := by
  refine ⟨fun k => ?_, _, rfl⟩
  show (State.reset.readP k).valid = true
  rw [State.reset_readP]
  rfl

/-- The operands at the edge of the range, for both moduli: m - 1 on both sides, and m on either side. -/
theorem witness_AddSubMulComplete :
    Config.fieldPrime - 1 = ((loadF [(1, p256 - 1)]).readF 1).toNat ∧ Config.fieldPrime - 1 < Config.fieldPrime ∧
    Config.groupOrder - 1 = ((loadF [(1, n256 - 1)]).readF 1).toNat ∧ Config.groupOrder - 1 < Config.groupOrder ∧
    Config.fieldPrime ≤ ((loadF [(1, p256)]).readF 1).toNat ∧ Config.groupOrder ≤ ((loadF [(1, n256)]).readF 1).toNat := by
  decide +kernel
theorem witness_ReduceCompletes :
    Config.fieldPrime = (if Modulus.p = .p then Config.fieldPrime else Config.groupOrder) ∧
    2 ^ 256 - 1 = ((loadF [(1, 0 - 1)]).readF 1).toNat := by decide +kernel
theorem witness_InverseCompletes :
    (Config.fieldPrime - 1 = ((loadF [(1, p256 - 1)]).readF 1).toNat ∧ Config.fieldPrime - 1 < Config.fieldPrime ∧
      Config.fieldPrime - 1 ≠ 0) ∧
    (1 = ((loadF [(1, 1)]).readF 1).toNat ∧ 1 < Config.fieldPrime) ∧
    Config.fieldPrime ≤ ((loadF [(1, p256)]).readF 1).toNat ∧ 0 = (State.reset.readF 1).toNat := by decide +kernel
theorem witness_PowerCompletes :
    (0 = (State.reset.readF 1).toNat ∧ 0 = (State.reset.readF 2).toNat ∧ 0 < Config.fieldPrime) ∧
    Config.fieldPrime - 1 = ((loadF [(1, p256 - 1)]).readF 1).toNat ∧
    Config.fieldPrime ≤ ((loadF [(1, p256)]).readF 1).toNat := by decide +kernel

/-- A value whose residue test fails is no square of a natural number. -/
theorem no_root {c : Nat} (h0 : 0 < c) (h : c < Config.fieldPrime) (hq : isQuad c = false) (y : Nat) :
    y * y % Config.fieldPrime ≠ c := by
  intro e
  have ne : (c : Laws.Fp) ≠ 0 := fun z => h0.ne' ((Laws.cast_eq_zero h).1 z)
  have yes := (Laws.isQuad_iff_isSquare ne).2 ((Laws.isSquare_iff h).2 ⟨y, e⟩)
  rw [hq] at yes
  cases yes

theorem witness_SquareRootCompletes_root :
    (4 = ((loadF [(1, 4)]).readF 1).toNat ∧ ∃ y : Nat, y * y % Config.fieldPrime = 4) ∧
    (0 = (State.reset.readF 1).toNat ∧ ∃ y : Nat, y * y % Config.fieldPrime = 0) :=
  ⟨⟨by decide +kernel, 2, by decide⟩, ⟨by decide +kernel, 0, by decide⟩⟩
theorem witness_SquareRootCompletes_range : Config.fieldPrime ≤ ((loadF [(1, p256)]).readF 1).toNat := by decide +kernel
/-- V-F-42: p - 1 has no root. -/
theorem witness_SquareRootCompletes_none :
    Config.fieldPrime - 1 = ((loadF [(1, p256 - 1)]).readF 1).toNat ∧ Config.fieldPrime - 1 < Config.fieldPrime ∧
    ∀ y : Nat, y * y % Config.fieldPrime ≠ Config.fieldPrime - 1 :=
  ⟨by decide +kernel, by decide, no_root (by decide) (by decide) (by decide +kernel)⟩
theorem witness_ResidueTestCompletes :
    Config.fieldPrime - 1 = ((loadF [(1, p256 - 1)]).readF 1).toNat ∧ Config.fieldPrime - 1 < Config.fieldPrime ∧
    Config.fieldPrime ≤ ((loadF [(1, p256)]).readF 1).toNat := by decide +kernel
theorem witness_ExactlyOneOfAPairIsAResidue : 0 < 1 ∧ 1 < Config.fieldPrime ∧ Config.fieldPrime - 1 < Config.fieldPrime := by
  decide

theorem witness_PointSetCompletes_point :
    ((loadF [(1, 1), (2, yQ)]).readF 1).toNat < Config.fieldPrime ∧ ((loadF [(1, 1), (2, yQ)]).readF 2).toNat < Config.fieldPrime ∧
    ((loadF [(1, 1), (2, yQ)]).readF 2).toNat * ((loadF [(1, 1), (2, yQ)]).readF 2).toNat % Config.fieldPrime =
      (1 * 1 * 1 + 7) % Config.fieldPrime ∧ ((loadF [(1, 1), (2, yQ)]).readF 1).toNat = 1 := by decide +kernel
theorem witness_PointSetCompletes_range :
    Config.fieldPrime ≤ ((loadF [(1, p256)]).readF 1).toNat ∧ Config.fieldPrime ≤ ((loadF [(2, 0 - 1)]).readF 2).toNat := by
  decide +kernel
/-- V-P-27: the point (0, 0). -/
theorem witness_PointSetCompletes_off :
    (State.reset.readF 1).toNat = 0 ∧ 0 < Config.fieldPrime ∧ 0 * 0 % Config.fieldPrime ≠ (0 * 0 * 0 + 7) % Config.fieldPrime := by
  decide +kernel
theorem witness_CoordinateReadsComplete :
    (loadP [(0, basePoint)]).readP 0 = .aff Config.baseX Config.baseY ∧ State.reset.readP 0 = .inf := by decide +kernel
theorem witness_LiftCompletes_point :
    1 = ((loadF [(1, 1)]).readF 1).toNat ∧ 1 < Config.fieldPrime ∧
    ∃ y : Nat, y * y % Config.fieldPrime = (1 * 1 * 1 + 7) % Config.fieldPrime :=
  ⟨by decide +kernel, by decide, yQ.toNat, by decide +kernel⟩
theorem witness_LiftCompletes_range : Config.fieldPrime ≤ ((loadF [(1, p256)]).readF 1).toNat := by decide +kernel
/-- V-X-8: no point has x = 5. -/
theorem witness_LiftCompletes_none :
    5 = ((loadF [(1, 5)]).readF 1).toNat ∧ 5 < Config.fieldPrime ∧
    ∀ y : Nat, y * y % Config.fieldPrime ≠ (5 * 5 * 5 + 7) % Config.fieldPrime :=
  ⟨by decide +kernel, by decide, no_root (by decide) (by decide) (by decide +kernel)⟩
/-- G has a residue y, 3G has none. -/
theorem witness_LiftingAnXCoordinateGivesThePointOrItsNegative :
    (Point.aff Config.baseX Config.baseY).valid = true ∧ isQuad Config.baseY.toNat = true ∧ threeG.valid = true ∧
    isQuad 0x388F7B0F632DE8140FE337E62A37F3566500A99934C2231B6CB9FD7584B8E672 = false := by decide +kernel
theorem witness_LiftingAnXCoordinateGivesThePointOrItsNegative_decoded : ∃ q, liftX 1 = .ok q := ⟨.aff 1 yQ, by decide +kernel⟩
theorem witness_PointAdditionCommandsComplete :
    ((loadP [(0, basePoint)]).readP 0).valid = true ∧ ((loadP [(0, basePoint)]).readP 1).valid = true := by decide +kernel
/-- Only a state no run reaches: (1, 0) is no point. -/
theorem witness_PointAdditionCommandsComplete_fails :
    pointAdd ((loadP [(0, .aff 1 0)]).readP 0) ((loadP [(0, .aff 1 0)]).readP 0) = .error .invZero := by decide +kernel
theorem witness_PointAdditionFollowsItsFiveCases :
    (Config.baseY ≠ p256 - Config.baseY) ∧ (Point.aff Config.baseX Config.baseY).valid = true ∧ twoG.valid = true ∧
    Config.baseX ≠ 0xC6047F9441ED7D6D3045406E95C07CD85C778E4B8CEF3CA7ABAC09B95C709EE5#256 := by decide +kernel
theorem witness_PointsFormACommutativeGroup :
    basePoint.valid = true ∧ twoG.valid = true ∧ threeG.valid = true ∧ pointAdd basePoint twoG = .ok threeG ∧
    pointAdd twoG .inf = .ok twoG := by decide +kernel
theorem witness_ScalarMultiplicationIsTheRepeatedSum : threeG.valid = true ∧ Point.inf.valid = true := by decide +kernel
theorem witness_ScalarMultiplicationCompletes : ((loadP [(0, twoG)]).readP 0).valid = true := by decide +kernel
/-- Only a state no run reaches: (1, 0) is no point. -/
theorem witness_ScalarMultiplicationCompletes_fails :
    pointMul ((loadP [(0, .aff 1 0)]).readP 0) ((loadF [(4, 2)]).readF 4) = .error .invZero := by decide +kernel
theorem witness_TheBasePointHasOrderN :
    0 < (n256 - 1).toNat ∧ (n256 - 1).toNat < Config.groupOrder ∧ 0 < (1#256).toNat := by decide
theorem witness_BytesAndIntegersAreInverse : (List.replicate 32 0x80#8).length = 32 := rfl
theorem witness_PaddingFillsTheLastBlock :
    (List.replicate 55 0#8).length < 2 ^ 61 ∧ (List.replicate 56 0#8).length < 2 ^ 61 := by decide
theorem witness_ScheduleFollowsItsRecurrence : (List.replicate 64 0xFF#8).length = 64 := rfl
theorem witness_TaggedHashCompletes :
    (15 : FReg).val + (1 : Fin 16).val ≤ 16 ∧ (0 : FReg).val + (0 : Fin 16).val ≤ 16 ∧
    (1 : FReg).val + (15 : Fin 16).val ≤ 16 := by decide
theorem witness_KeyGenerationCompletes :
    (1 = ((loadF [(1, 1)]).readF 1).toNat ∧ 1 < Config.groupOrder) ∧
    (Config.groupOrder - 1 = ((loadF [(1, n256 - 1)]).readF 1).toNat ∧ 1 ≤ Config.groupOrder - 1) ∧
    0 = (State.reset.readF 1).toNat ∧ Config.groupOrder ≤ ((loadF [(1, n256)]).readF 1).toNat := by decide +kernel
theorem witness_OppositeSecretsHaveTheSameKey :
    1 ≤ (1#256).toNat ∧ (1#256).toNat < Config.groupOrder ∧ 1 ≤ (n256 - 1).toNat ∧ (n256 - 1).toNat < Config.groupOrder := by
  decide
/-- V-SIGN-1: m = 0, d0 = 1, and the nonce is not 0. -/
theorem witness_SigningCompletes_signs :
    0 = (loadF [(1, 1)]).readF 0 ∧ 1 = (loadF [(1, 1)]).readF 1 ∧ (2 : FReg) ≠ 3 ∧ 1 ≤ (1#256).toNat ∧
    (1#256).toNat < Config.groupOrder ∧
    (intOfBytes (taggedHash Config.tagDerive (bytes32 1#256 ++ bytes32 0#256))).toNat % Config.groupOrder ≠ 0 := by
  decide +kernel
theorem witness_SigningCompletes_secret :
    (State.reset.readF 1).toNat = 0 ∧ Config.groupOrder ≤ ((loadF [(1, n256)]).readF 1).toNat ∧
    ((loadF [(1, n256 - 1)]).readF 1).toNat < Config.groupOrder := by decide +kernel
theorem witness_NormalisedNoncesCommitToResidues :
    1 ≤ 1 ∧ 1 < Config.groupOrder ∧ pointMul basePoint (BitVec.ofNat 256 1) = .ok (.aff Config.baseX Config.baseY) := by
  decide +kernel
theorem witness_VerificationCompletes : 0 = State.reset.readF 0 ∧ 0 = State.reset.readF 4 := by decide +kernel
theorem witness_VerificationTellsOnlyItsAnswer :
    ∃ t t', exec (.verify 0 4 2 3) State.reset = .next t ∧
      exec (.verify 0 4 2 3) { State.reset with f := Vector.replicate 16 5#256 } = .next t' := ⟨_, _, rfl, rfl⟩
/-- The key of d = 1 has a residue y, the key of d = 3 has none. -/
theorem witness_SignaturesVerifyExactlyForResidueKeysOrChallengeZero_one :
    (loadF [(1, 1)]).err = false ∧ 1 ≤ ((loadF [(1, 1)]).readF 1).toNat ∧
    ((loadF [(1, 1)]).readF 1).toNat < Config.groupOrder ∧
    hashScalar .derive [(loadF [(1, 1)]).readF 1, (loadF [(1, 1)]).readF 0] ≠ 0 ∧
    pointMul basePoint ((loadF [(1, 1)]).readF 1) = .ok basePoint ∧ isQuad Config.baseY.toNat = true := by decide +kernel
theorem witness_SignaturesVerifyExactlyForResidueKeysOrChallengeZero_three :
    (loadF [(1, 3)]).err = false ∧ 1 ≤ ((loadF [(1, 3)]).readF 1).toNat ∧
    ((loadF [(1, 3)]).readF 1).toNat < Config.groupOrder ∧
    hashScalar .derive [(loadF [(1, 3)]).readF 1, (loadF [(1, 3)]).readF 0] ≠ 0 ∧
    pointMul basePoint ((loadF [(1, 3)]).readF 1) = .ok threeG := by decide +kernel
/-- V-SIGN-3: for d = 3 and m = 0 the y-coordinate is no residue and the challenge is not 0, so the statement says T = 0. -/
theorem witness_SignaturesVerifyExactlyForResidueKeysOrChallengeZero_fails :
    isQuad 0x388F7B0F632DE8140FE337E62A37F3566500A99934C2231B6CB9FD7584B8E672 = false ∧
    sign 0 3 = .ok (0xBF27486B0DE2F9E54BAA42BD737A04A61DE4027CEFA0723F095C2B0932504675#256,
      0x83CAE37929AF5FEB22BF3DD915C05329145295C64FCA4A109EC5687A97EB36CE#256) ∧
    hashScalar .challenge [0xBF27486B0DE2F9E54BAA42BD737A04A61DE4027CEFA0723F095C2B0932504675#256,
      0xF9308A019258C31049344F85F89D5229B531C845836F99B08601F113BCE036F9#256, 0#256] =
        0xC824D561FFD2847BF2C685BD0B1E820BF59A2B94E0A9EDCB81D589CC583DA50B := by decide +kernel

end Sys2Proof.Tests
end

section
/-! SUPPORT. A byte string as a big-endian number (00_scope.md R14). -/

namespace Sys2Proof.Scope

open Sys2Proof.Machine

/-- The number that a byte string of any length spells, the most significant byte first (R14). -/
def bigEndian (b : List Byte) : Nat := b.foldl (fun acc x => 256 * acc + x.toNat) 0

theorem intOfBytes_eq (b : List Byte) : intOfBytes b = BitVec.ofNat 256 (bigEndian b) := rfl

theorem bigEndian_snoc (b : List Byte) (x : Byte) : bigEndian (b ++ [x]) = 256 * bigEndian b + x.toNat := by
  rw [bigEndian, List.foldl_append]
  rfl

theorem bigEndian_lt (b : List Byte) : bigEndian b < 256 ^ b.length := by
  induction b using List.reverseRecOn with
  | nil => decide
  | append_singleton b x ih =>
    rw [bigEndian_snoc, List.length_append, List.length_singleton, pow_succ]
    have := x.isLt
    omega

/-- Byte k of a string is the base-256 digit of its number that has as many digits below it as the string has bytes after k. -/
theorem bigEndian_digit (b : List Byte) {k : Nat} (h : k < b.length) :
    bigEndian b / 256 ^ (b.length - 1 - k) % 256 = b[k].toNat := by
  induction b using List.reverseRecOn with
  | nil => exact absurd h (Nat.not_lt_zero k)
  | append_singleton b x ih =>
    have hx := x.isLt
    rw [List.length_append, List.length_singleton] at h
    rw [bigEndian_snoc, List.length_append, List.length_singleton, Nat.add_sub_cancel]
    by_cases last : k = b.length
    · subst last
      rw [Nat.sub_self, pow_zero, Nat.div_one, List.getElem_concat_length rfl]
      omega
    · have inside : k < b.length := by omega
      have shift : b.length - k = (b.length - 1 - k) + 1 := by omega
      have drop : (256 * bigEndian b + x.toNat) / 256 = bigEndian b := by omega
      rw [shift, pow_succ', ← Nat.div_div_eq_div_mul, drop, List.getElem_append_left inside]
      exact ih inside

/-- R14: byte k of `bytes32(v)` is `v[255-8k : 248-8k]`. -/
theorem bytes32_getElem (v : U256) {k : Nat} (h : k < (bytes32 v).length) :
    (bytes32 v)[k] = v.extractLsb' (248 - 8 * k) 8 := by
  simp [bytes32]

/-- No two values have the same 32 bytes. -/
theorem bytes32_injective : Function.Injective bytes32 := by
  intro v w h
  apply BitVec.eq_of_getLsbD_eq
  intro i hi
  have hk : 31 - i / 8 < 32 := by omega
  have position : 248 - 8 * (31 - i / 8) + i % 8 = i := by omega
  have byte : v.extractLsb' (248 - 8 * (31 - i / 8)) 8 = w.extractLsb' (248 - 8 * (31 - i / 8)) 8 := by
    rw [← bytes32_getElem v (by rwa [bytes32_length]), ← bytes32_getElem w (by rwa [bytes32_length])]
    simp only [h]
  have bit := congrArg (BitVec.getLsbD · (i % 8)) byte
  simpa [BitVec.getLsbD_extractLsb', position, Nat.mod_lt] using bit

theorem bytes32_intOfBytes {b : List Byte} (h : b.length = 32) : bytes32 (intOfBytes b) = b := by
  refine List.ext_getElem (by rw [bytes32_length, h]) fun k hk hb => ?_
  have small : bigEndian b < 2 ^ 256 := by simpa [h] using bigEndian_lt b
  have digit := bigEndian_digit b hb
  have weight : 256 ^ (b.length - 1 - k) = 2 ^ (248 - 8 * k) := by
    rw [show (256 : Nat) = 2 ^ 8 from rfl, ← pow_mul]
    congr 1
    omega
  rw [weight] at digit
  apply BitVec.eq_of_toNat_eq
  rw [bytes32_getElem, intOfBytes_eq, BitVec.extractLsb'_toNat, BitVec.toNat_ofNat, Nat.mod_eq_of_lt small,
    Nat.shiftRight_eq_div_pow]
  exact digit

/-- An injective function with a right inverse has it as its left inverse. -/
theorem intOfBytes_bytes32 (v : U256) : intOfBytes (bytes32 v) = v :=
  bytes32_injective (bytes32_intOfBytes (bytes32_length v))

/-- Settles O49: the bytes are those of `bytes32_getElem`, and `int` is a two-sided inverse. -/
theorem bytesAndIntegersAreInverse : Obligations.BytesAndIntegersAreInverse := by
  refine ⟨fun v => ⟨bytes32_length v, intOfBytes_bytes32 v, fun k hk => ?_⟩, fun b => bytes32_intOfBytes⟩
  have inside : k < (bytes32 v).length := by rwa [bytes32_length]
  rw [List.getD_eq_getElem _ _ inside, bytes32_getElem]
  apply BitVec.eq_of_toNat_eq
  rw [BitVec.extractLsb'_toNat, BitVec.toNat_ofNat, Nat.shiftRight_eq_div_pow]

end Sys2Proof.Scope
end

section
/-! SUPPORT. What the equations of `point_add` and `point_mul` say on the library's curve (42_curve_point.md R151, R160): each
holds exactly if the equation of its points in the library's group does. -/

namespace Sys2Proof.Scope

open Sys2Proof.Machine Sys2Proof.Laws

section OnTheCurve

variable [DecidableEq Fp] [Fact (Nat.Prime Config.fieldPrime)]

theorem pointAdd_eq_ok_iff {q r z : Point} (hq : q.valid = true) (hr : r.valid = true) (hz : z.valid = true) :
    pointAdd q r = .ok z ↔ toW z hz = toW q hq + toW r hr := by
  obtain ⟨sum, hsum, esum, wsum⟩ := pointAdd_toW hq hr
  rw [esum, Except.ok.injEq, ← wsum, toW_inj, eq_comm]

/-- Pairs of points with one sum on the curve have one outcome of `point_add`. -/
theorem pointAdd_congr {q r q' r' : Point} (hq : q.valid = true) (hr : r.valid = true) (hq' : q'.valid = true)
    (hr' : r'.valid = true) (h : toW q hq + toW r hr = toW q' hq' + toW r' hr') : pointAdd q r = pointAdd q' r' := by
  obtain ⟨z, hz, ez, wz⟩ := pointAdd_toW hq hr
  rw [ez, eq_comm, pointAdd_eq_ok_iff hq' hr' hz, wz, h]

theorem pointMul_eq_ok_iff {q z : Point} (hq : q.valid = true) (hz : z.valid = true) (k : U256) :
    pointMul q k = .ok z ↔ toW z hz = k.toNat • toW q hq := by
  obtain ⟨prod, hprod, eprod, wprod⟩ := pointMul_toW hq k
  rw [eprod, Except.ok.injEq, ← wprod, toW_inj, eq_comm]

/-- Two scalars give one multiple of a point exactly if they are congruent modulo its order. -/
theorem pointMul_eq_pointMul_iff {q : Point} (hq : q.valid = true) (k k' : U256) :
    pointMul q k = pointMul q k' ↔ k.toNat ≡ k'.toNat [MOD addOrderOf (toW q hq)] := by
  obtain ⟨z, hz, ez, wz⟩ := pointMul_toW hq k
  rw [ez, eq_comm, pointMul_eq_ok_iff hq hz, wz, nsmul_eq_nsmul_iff_modEq]

end OnTheCurve

/-- The negative of a point is a point, and it is the library's negative. -/
theorem negPoint_toW {q : Point} (hq : q.valid = true) :
    ∃ hn : (negPoint q).valid = true, toW (negPoint q) hn = -toW q hq := by
  cases q with
  | inf => exact ⟨rfl, rfl⟩
  | aff x y =>
    obtain ⟨lx, -, e⟩ := valid_aff.1 hq
    have ly' := fsub_lt 0 y.toNat fieldPrime_pos
    have opposite : (((BitVec.ofNat 256 (fsub Config.fieldPrime 0 y.toNat)).toNat : Nat) : Fp) =
        secp.negY x.toNat y.toNat := by
      rw [toNat_ofNat_lt ly', cast_fsub]
      simp [WeierstrassCurve.Affine.negY, secp]
    have hn : (negPoint (.aff x y)).valid = true := by
      refine valid_aff.2 ⟨lx, by rwa [toNat_ofNat_lt ly'], ?_⟩
      rw [toNat_ofNat_lt ly', cast_fsub, ← e]
      ring
    exact ⟨hn, toW_aff rfl opposite hn _⟩

/-- R33, R151: the result of `point_add` on two points is a point. -/
theorem pointAdd_valid {q r z : Point} (hq : q.valid = true) (hr : r.valid = true) (h : pointAdd q r = .ok z) :
    z.valid = true := by
  classical
  have := fact_fieldPrime
  obtain ⟨sum, hsum, esum, -⟩ := pointAdd_toW hq hr
  obtain rfl : sum = z := Except.ok.inj (esum.symm.trans h)
  exact hsum

/-- R12, R11: two multiples of G agree exactly if their scalars are congruent modulo n. -/
theorem pointMul_basePoint_eq_iff (k k' : U256) :
    pointMul basePoint k = pointMul basePoint k' ↔ k.toNat ≡ k'.toNat [MOD Config.groupOrder] := by
  classical
  have := fact_fieldPrime
  rw [pointMul_eq_pointMul_iff basePoint_valid, basePoint_order]

/-- R12, R11: `k·G` is infinity exactly for the multiples k of n. -/
theorem pointMul_basePoint_eq_inf_iff (k : U256) : pointMul basePoint k = .ok .inf ↔ Config.groupOrder ∣ k.toNat := by
  classical
  have := fact_fieldPrime
  rw [pointMul_eq_ok_iff basePoint_valid (show Point.inf.valid = true from rfl), toW_inf, eq_comm, ← basePoint_order,
    addOrderOf_dvd_iff_nsmul_eq_zero]

/-- Settles O45: by `pointAdd_eq_ok_iff` each clause is the law of that name in the library's group. -/
theorem pointsFormACommutativeGroup : Obligations.PointsFormACommutativeGroup := by
  classical
  have := fact_fieldPrime
  have hinf : Point.inf.valid = true := rfl
  refine ⟨⟨hinf, fun q hq => ⟨?_, ?_⟩⟩, fun q r hq hr => ?_, fun q hq => ?_, fun q r u qr ru hq hr hu hqr hru => ?_⟩
  · rw [pointAdd_eq_ok_iff hinf hq hq, toW_inf, zero_add]
  · rw [pointAdd_eq_ok_iff hq hinf hq, toW_inf, add_zero]
  · obtain ⟨z, hz, ez, wz⟩ := pointAdd_toW hq hr
    exact ⟨z, hz, ez, (pointAdd_eq_ok_iff hr hq hz).2 (by rw [wz, add_comm])⟩
  · obtain ⟨hn, wn⟩ := negPoint_toW hq
    exact ⟨hn, (pointAdd_eq_ok_iff hq hn hinf).2 (by rw [wn, toW_inf, add_neg_cancel])⟩
  · have hqr' := pointAdd_valid hq hr hqr
    have hru' := pointAdd_valid hr hu hru
    have wqr := (pointAdd_eq_ok_iff hq hr hqr').1 hqr
    have wru := (pointAdd_eq_ok_iff hr hu hru').1 hru
    exact pointAdd_congr hqr' hu hq hru' (by rw [wqr, wru, add_assoc])

/-- Settles O48: `k·G` depends on k modulo the order of G, which is n, and the multiple 0 is infinity. -/
theorem theBasePointHasOrderN : Obligations.TheBasePointHasOrderN := by
  refine ⟨pointMul_groupOrder, fun k hpos hlt h => ?_, fun k => ?_⟩
  · exact Nat.not_dvd_of_pos_of_lt hpos hlt ((pointMul_basePoint_eq_inf_iff k).1 h)
  · have small : k.toNat % Config.groupOrder < 2 ^ 256 := (Nat.mod_le _ _).trans_lt k.isLt
    rw [pointMul_basePoint_eq_iff, BitVec.toNat_ofNat, Nat.mod_eq_of_lt small]
    exact (Nat.mod_modEq _ _).symm

end Sys2Proof.Scope
end

section
/-! SUPPORT. Every step keeps the P registers points (10_state.md R33): what the host, the reset input and each command can do to
the P file. -/

namespace Sys2Proof.Scope

open Sys2Proof.Machine Sys2Proof.Laws

/-! ### The results of the point functions are points -/

/-- R33, R160: a multiple of a point is a point. -/
theorem pointMul_valid {q z : Point} {k : U256} (hq : q.valid = true) (h : pointMul q k = .ok z) : z.valid = true := by
  classical
  have := fact_fieldPrime
  obtain ⟨prod, hprod, eprod, -⟩ := pointMul_toW hq k
  obtain rfl : prod = z := Except.ok.inj (eprod.symm.trans h)
  exact hprod

/-- R33, R181: a decoded x-coordinate gives a point. -/
theorem liftX_valid {x : U256} {z : Point} (h : liftX x = .ok z) : z.valid = true := by
  obtain ⟨-, e⟩ | ⟨-, -, e⟩ | ⟨-, -, y, -, e, hy, -⟩ := liftX_cases x
  · rw [e] at h
    cases h
  · rw [e] at h
    cases h
  · obtain rfl : Point.aff x y = z := Except.ok.inj (e.symm.trans h)
    exact hy

/-- R120: an operand that passes the range check is below the modulus and is used as it stands. -/
theorem of_operandBelow_ok {m : Modulus} {v : U256} {a : Nat} (h : operandBelow m v = .ok a) :
    v.toNat < modulusOf m ∧ v.toNat = a := by
  obtain ⟨lt, e⟩ | ⟨-, e⟩ := operandBelow_cases m v
  · exact ⟨lt, Except.ok.inj (e.symm.trans h)⟩
  · rw [e] at h
    cases h

/-- R156: what PSET checks of a pair is that it is a point. -/
theorem aff_valid_of_checks {x y : U256} {a b : Nat} (ha : operandBelow .p x = .ok a) (hb : operandBelow .p y = .ok b)
    (h : onCurve a b = true) : (Point.aff x y).valid = true := by
  obtain ⟨lx, rfl⟩ := of_operandBelow_ok ha
  obtain ⟨ly, rfl⟩ := of_operandBelow_ok hb
  exact valid_aff.2 ⟨lx, ly, (onCurve_iff _ _).1 h⟩

/-! ### `PointsOk` after the named operations -/

/-- `PointsOk` speaks of the P file alone. -/
theorem pointsOk_of_p_eq {s t : State} (hs : PointsOk s) (h : t.p = s.p) : PointsOk t := fun k => by
  rw [State.readP_congr h]
  exact hs k

theorem pointsOk_reset : PointsOk State.reset := fun k => by
  rw [State.reset_readP]
  rfl

theorem pointsOk_writeF {s : State} (hs : PointsOk s) (r : FReg) (v : U256) : PointsOk (s.writeF r v) :=
  pointsOk_of_p_eq hs (s.writeF_p r v)

theorem pointsOk_setT {s : State} (hs : PointsOk s) (b : Bool) : PointsOk (s.setT b) :=
  pointsOk_of_p_eq hs (s.setT_p b)

theorem pointsOk_writeP {s : State} (hs : PointsOk s) (r : PReg) {q : Point} (hq : q.valid = true) :
    PointsOk (s.writeP r q) := fun k => by
  rw [State.readP_writeP]
  split
  · exact hq
  · exact hs k

/-! ### What the host can do to the P file -/

/-- R37, R63: of the accepted writes only a soft reset touches the P file. -/
theorem writeLoc_p (s : State) (loc : Loc) (v : U32) : (writeLoc s loc v).p = s.p ∨ (writeLoc s loc v).p = State.reset.p := by
  cases loc with
  | ctrl =>
    obtain ⟨-, e⟩ | ⟨-, -, e⟩ | ⟨-, -, e⟩ := writeCtrl_cases s v
    · exact .inr (congrArg State.p e :)
    · exact .inl (congrArg State.p e :)
    · exact .inl (congrArg State.p e :)
  | cmd | status | fWord _ _ | pX _ _ | pY _ _ | pInfo _ => exact .inl rfl

/-- R72: an access leaves the P file as it is, or resets it. -/
theorem hostStep_p (s : State) (a : Access) : (hostStep s a).p = s.p ∨ (hostStep s a).p = State.reset.p := by
  obtain ⟨-, e⟩ | ⟨-, loc, -, e⟩ := hostStep_cases s a
  · obtain ⟨r, n, e'⟩ := answerError_eq s a
    exact .inl (by rw [e, e'])
  · rw [e]
    cases a with
    | read off width => exact .inl rfl
    | write off width v => exact writeLoc_p s loc v

theorem hostStep_keeps_points {s : State} (hs : PointsOk s) (a : Access) : PointsOk (hostStep s a) := by
  obtain h | h := hostStep_p s a
  · exact pointsOk_of_p_eq hs h
  · exact pointsOk_of_p_eq pointsOk_reset h

/-! ### What the commands can do to the P file -/

/-- Where the rule of a command answers its writes, they leave every P register a point. -/
def GivesPoints (r : Except CmdError State) : Prop := ∀ u, r = .ok u → PointsOk u

theorem givesPoints_ok {u : State} (h : PointsOk u) : GivesPoints (.ok u) := fun _ e => Except.ok.inj e ▸ h

theorem givesPoints_error (e : CmdError) : GivesPoints (.error e) := fun _ h => by cases h

theorem givesPoints_bind {α : Type} {x : Except CmdError α} {f : α → Except CmdError State}
    (h : ∀ a, x = .ok a → GivesPoints (f a)) : GivesPoints (x >>= f) := fun u e => by
  obtain ⟨a, ha, e'⟩ := bind_ok e
  exact h a ha u e'

theorem givesPoints_storePoint {s : State} (hs : PointsOk s) (rd : PReg) {r : Except CmdError Point}
    (hr : ∀ q, r = .ok q → q.valid = true) : GivesPoints (storePoint rd r s) :=
  givesPoints_bind fun q hq => givesPoints_ok (pointsOk_writeP hs rd (hr q hq))

theorem givesPoints_binaryField {s : State} (hs : PointsOk s) (op : Nat → Nat → Nat → Nat) (m : Modulus) (rd ra rb : FReg) :
    GivesPoints (binaryField op m rd ra rb s) :=
  givesPoints_bind fun _ _ => givesPoints_bind fun _ _ => givesPoints_ok (pointsOk_writeF hs rd _)

/-- R91, R262: the end of a command keeps the P registers points, with an error and without. -/
theorem finish_keeps_points {s t : State} {r : Except CmdError State} (hs : PointsOk s) (hr : GivesPoints r)
    (h : finish s r = .next t) : PointsOk t := by
  obtain ⟨e, -, rfl⟩ | ⟨u, hu, rfl⟩ := finish_cases h
  · exact hs
  · exact hr u hu

/-- R33: the eight commands with a P destination store a point, the others leave the P file alone. -/
theorem exec_keeps_points {i : Instr} {s t : State} (hs : PointsOk s) (h : exec i s = .next t) : PointsOk t := by
  cases i with
  | nop => exact finish_keeps_points hs (givesPoints_ok hs) h
  | fmov rd | fsel rd | fred _ rd => exact finish_keeps_points hs (givesPoints_ok (pointsOk_writeF hs rd _)) h
  | feq | pisinf | verify => exact finish_keeps_points hs (givesPoints_ok (pointsOk_setT hs _)) h
  | fadd m rd ra rb | fsub m rd ra rb | fmul m rd ra rb =>
    exact finish_keeps_points hs (givesPoints_binaryField hs _ m rd ra rb) h
  | fexp rd | pgetx rd | pgety rd | keygen rd =>
    exact finish_keeps_points hs (givesPoints_bind fun _ _ => givesPoints_ok (pointsOk_writeF hs rd _)) h
  | finv rd | fsqrt rd =>
    exact finish_keeps_points hs
      (givesPoints_bind fun _ _ => givesPoints_bind fun _ _ => givesPoints_ok (pointsOk_writeF hs rd _)) h
  | fisq => exact finish_keeps_points hs (givesPoints_bind fun _ _ => givesPoints_ok (pointsOk_setT hs _)) h
  | thash _ rd =>
    refine finish_keeps_points hs ?_ h
    split
    · exact givesPoints_ok (pointsOk_writeF hs rd _)
    · exact givesPoints_error _
  | sign rd rc =>
    refine finish_keeps_points hs ?_ h
    split
    · exact givesPoints_bind fun _ _ => givesPoints_ok (pointsOk_writeF (pointsOk_writeF hs rd _) rc _)
    · exact givesPoints_error _
  | pinf rd => exact finish_keeps_points hs (givesPoints_ok (pointsOk_writeP hs rd rfl)) h
  | pldg rd => exact finish_keeps_points hs (givesPoints_ok (pointsOk_writeP hs rd basePoint_valid)) h
  | pmov rd ra => exact finish_keeps_points hs (givesPoints_ok (pointsOk_writeP hs rd (hs ra))) h
  | pset rd ra rb =>
    refine finish_keeps_points hs (givesPoints_bind fun x hx => givesPoints_bind fun y hy => ?_) h
    split
    · next on => exact givesPoints_ok (pointsOk_writeP hs rd (aff_valid_of_checks hx hy on))
    · exact givesPoints_error _
  | plift rd ra => exact finish_keeps_points hs (givesPoints_storePoint hs rd fun _ => liftX_valid) h
  | padd rd ra rb =>
    exact finish_keeps_points hs (givesPoints_storePoint hs rd fun _ => pointAdd_valid (hs ra) (hs rb)) h
  | pdbl rd ra => exact finish_keeps_points hs (givesPoints_storePoint hs rd fun _ => pointAdd_valid (hs ra) (hs ra)) h
  | pmul rd ra rb => exact finish_keeps_points hs (givesPoints_storePoint hs rd fun _ => pointMul_valid (hs ra)) h

/-- R78, R96: so does the engine's turn, whether the block is idle, the word illegal or a command runs. -/
theorem engineTurn_keeps_points {s t : State} (hs : PointsOk s) (h : engineTurn s = .next t) : PointsOk t := by
  cases busy : s.busy with
  | false =>
    rw [engineTurn_idle busy] at h
    cases h
    exact hs
  | true =>
    rw [engineTurn_busy busy] at h
    cases word : decode s.cmdreg with
    | error e =>
      rw [completion_error word] at h
      cases h
      exact hs
    | ok i =>
      rw [completion_ok word] at h
      exact exec_keeps_points hs h

/-- Settles O29: a step is the engine's turn, an access or the reset input, and each keeps the points. -/
theorem stepsKeepEveryPointRegisterOnTheCurve : Obligations.StepsKeepEveryPointRegisterOnTheCurve := by
  intro s t hs h
  cases agenda : s.agenda with
  | nil =>
    rw [step_nil agenda] at h
    exact engineTurn_keeps_points hs h
  | cons e rest =>
    have hs' : PointsOk { s with agenda := rest } := hs
    cases e with
    | access a =>
      rw [step_access agenda] at h
      cases h
      exact hostStep_keeps_points hs' a
    | engine =>
      rw [step_engine agenda] at h
      exact engineTurn_keeps_points hs' h
    | resetInput =>
      rw [step_reset agenda] at h
      cases h
      exact pointsOk_reset

end Sys2Proof.Scope
end

section
/-! SUPPORT. Reset, CTRL and STATUS (10_state.md R36, R37, R48). -/

namespace Sys2Proof.Scope

open Sys2Proof.Machine

/-! ### The block after reset -/

theorem sameBlock_refl (s : State) : SameBlock s s := ⟨rfl, rfl, rfl, rfl, rfl, rfl, rfl, rfl⟩

/-- The answer to an access is no part of the block (assumption log 2). -/
theorem sameBlock_response {s t : State} (h : SameBlock s t) (r : Option Response) :
    SameBlock s { t with response := r } := { h with }

theorem sameBlock_resetBlock (s : State) : SameBlock State.reset s.resetBlock := { sameBlock_refl State.reset with }

/-- STATUS speaks of the architectural state alone. -/
theorem statusWord_congr {s t : State} (h : SameBlock s t) : statusWord t = statusWord s := by
  simp only [statusWord, h.errcode, h.t, h.err, h.done, h.busy]

theorem statusWord_reset : statusWord State.reset = 0#32 := by decide

/-- R48: the block of `State.reset` has the stated values. -/
theorem resetValues_of_sameBlock {t : State} (h : SameBlock State.reset t) : ResetValues t where
  f r := by rw [State.readF_congr h.f, State.reset_readF]
  p k := by rw [State.readP_congr h.p, State.reset_readP]
  t := h.t
  cmdreg := h.cmdreg
  busy := h.busy
  done := h.done
  err := h.err
  errcode := h.errcode

/-- R48: both parts of what a reset leaves. -/
theorem resetValues_and_status {t : State} (h : SameBlock State.reset t) :
    ResetValues t ∧ statusWord t = 0x00000000#32 :=
  ⟨resetValues_of_sameBlock h, (statusWord_congr h).trans statusWord_reset⟩

/-! ### Accesses to CTRL -/

/-- R37, R65: an idle block refuses exactly the CTRL writes with a reserved bit set. -/
theorem writeRefused_ctrl (s : State) (v : U32) : writeRefused s .ctrl v = (v.extractLsb' 2 30 != 0#30) := by
  simp [writeRefused, readOnly]

/-- R37: bits 31:2 are not 0 if one of them is set. -/
theorem reserved_ne_zero {v : U32} (h : ∃ b : Fin 32, 2 ≤ b.val ∧ v.getLsbD b = true) : v.extractLsb' 2 30 ≠ 0#30 := by
  obtain ⟨b, hb, hset⟩ := h
  intro zero
  have bit : (v.extractLsb' 2 30).getLsbD (b.val - 2) = true := by
    rw [BitVec.getLsbD_extractLsb', Nat.add_sub_of_le hb, hset, decide_eq_true (by omega)]
    rfl
  rw [zero, BitVec.getLsbD_zero] at bit
  cases bit

/-- R37: a CTRL write of an idle block with a reserved bit set. -/
theorem hostStep_ctrl_reserved {s : State} {v : U32} (idle : s.busy = false) (h : v.extractLsb' 2 30 ≠ 0#30) :
    hostStep s (.write 0x008#12 4 v) = { s with response := some .writeError } := by
  have refused : accessRefused s (.write (offsetOf .ctrl) 4 v) = true := by
    rw [accessRefused_write, idle, writeRefused_ctrl]
    simpa using h
  exact hostStep_refused refused

/-- R37: a CTRL write of an idle block with its reserved bits 0. -/
theorem hostStep_ctrl {s : State} {v : U32} (idle : s.busy = false) (h : v.extractLsb' 2 30 = 0#30) :
    hostStep s (.write 0x008#12 4 v) = { writeCtrl s v with response := some .writeOkay } := by
  have accepted : (s.busy || writeRefused s .ctrl v) = false := by
    rw [idle, writeRefused_ctrl, h]
    rfl
  exact hostStep_write accepted

/-- R37: a write of 0 does nothing. -/
theorem writeCtrl_zero (s : State) : writeCtrl s 0#32 = s := rfl

/-- R37, R263: CLRERR alone clears the error. -/
theorem writeCtrl_clrerr (s : State) : writeCtrl s 1#32 = s.clearError := rfl

/-- R37, R291: SRST resets the block, whatever CLRERR is. -/
theorem writeCtrl_srst (s : State) {v : U32} (h : v.getLsbD 1 = true) : writeCtrl s v = s.resetBlock := by
  rw [writeCtrl, if_pos h]

/-- R62, R63: an access answered ERROR changes no architectural state. -/
theorem sameBlock_of_refused {s : State} {a : Access} (h : accessRefused s a = true) : SameBlock s (hostStep s a) := by
  obtain ⟨r, n, e⟩ := answerError_eq s a
  rw [hostStep_refused h, e]
  exact { sameBlock_refl s with }

/-- Settles O24: an idle block by the bits of the word written, a busy one because R64 refuses both accesses. -/
theorem controlWriteEffects : Obligations.ControlWriteEffects := by
  refine ⟨fun s v idle => ⟨fun reserved => ?_, ?_, ?_, fun srst => ?_, ?_⟩, fun s v busy => ?_⟩
  · exact hostStep_ctrl_reserved idle (reserved_ne_zero reserved)
  · rintro rfl
    rw [hostStep_ctrl idle rfl, writeCtrl_zero]
  · rintro rfl
    rw [hostStep_ctrl idle rfl, writeCtrl_clrerr, State.clearError]
  · have free : v.extractLsb' 2 30 = 0#30 := by rcases srst with rfl | rfl <;> rfl
    have bit : v.getLsbD 1 = true := by rcases srst with rfl | rfl <;> rfl
    rw [hostStep_ctrl idle free, writeCtrl_srst s bit]
    rfl
  · exact hostStep_read (loc := .ctrl) (by rw [idle]; rfl)
  · have write : accessRefused s (.write 0x008#12 4 v) = true := by
      rw [show 0x008#12 = offsetOf .ctrl from rfl, accessRefused_write, busy, Bool.true_or]
    have read : accessRefused s (.read 0x008#12 4) = true := by
      rw [show 0x008#12 = offsetOf .ctrl from rfl, accessRefused_read, busy]
      rfl
    exact ⟨write, read, sameBlock_of_refused write, sameBlock_of_refused read⟩

/-- Settles O1: each of the three leaves the block of `State.reset`. -/
theorem resetLeavesTheStatedValues : Obligations.ResetLeavesTheStatedValues := by
  refine ⟨resetValues_and_status (sameBlock_refl _), fun s rest h => ?_, fun s v idle srst free => ?_⟩
  · exact ⟨_, step_reset h, resetValues_and_status (sameBlock_resetBlock _)⟩
  · rw [hostStep_ctrl idle free, writeCtrl_srst s srst]
    exact resetValues_and_status (sameBlock_response (sameBlock_resetBlock s) _)

/-! ### STATUS -/

/-- R36: bits 3 to 0 of STATUS. -/
theorem statusWord_flags (s : State) :
    (statusWord s).getLsbD 0 = s.busy ∧ (statusWord s).getLsbD 1 = s.done ∧ (statusWord s).getLsbD 2 = s.err ∧
    (statusWord s).getLsbD 3 = s.t := by
  simp only [statusWord, BitVec.getLsbD_append, BitVec.getLsbD_ofBool]
  exact ⟨rfl, rfl, rfl, rfl⟩

/-- R36: the bits between the flags and ERRCODE lie above the four flags. -/
theorem statusWord_reserved_low (s : State) : (statusWord s).extractLsb' 4 4 = 0#4 := by
  unfold statusWord
  iterate 4 rw [BitVec.extractLsb'_append_eq_of_le (by decide)]
  exact BitVec.extractLsb'_append_eq_of_add_le (by decide)

/-- R36: ERRCODE lies above the flags and the four reserved bits. -/
theorem statusWord_errcode (s : State) : (statusWord s).extractLsb' 8 8 = s.errcode := by
  unfold statusWord
  iterate 5 rw [BitVec.extractLsb'_append_eq_of_le (by decide)]
  rw [BitVec.extractLsb'_append_eq_of_add_le (by decide)]
  exact BitVec.extractLsb'_eq_self

theorem statusWord_reserved_high (s : State) : (statusWord s).extractLsb' 16 16 = 0#16 := by
  unfold statusWord
  iterate 6 rw [BitVec.extractLsb'_append_eq_of_le (by decide)]
  rfl

/-- Settles O20: the fields of STATUS one by one, and R64's exception for its read. -/
theorem statusShowsItsFields : Obligations.StatusShowsItsFields := by
  intro s
  obtain ⟨hbusy, hdone, herr, ht⟩ := statusWord_flags s
  have readable : (s.busy && Loc.status != .status) = false := Bool.and_false s.busy
  exact ⟨hbusy, hdone, herr, ht, statusWord_reserved_low s, statusWord_errcode s, statusWord_reserved_high s,
    hostStep_read readable⟩

/-- Settles O27: after reset the block is idle without an error, and every P register holds infinity. -/
theorem resetMeetsTheInvariants : Obligations.ResetMeetsTheInvariants := ⟨rfl, pointsOk_reset⟩

end Sys2Proof.Scope
end

section
/-! SUPPORT. The window's map against the offsets R61 lists, and the accesses it refuses (20_memory.md R60 to R65). -/

namespace Sys2Proof.Scope

open Sys2Proof.Machine

/-! ### The offsets of the map -/

theorem offsetOf_injective {l m : Loc} (h : offsetOf l = offsetOf m) : l = m := by
  have e := congrArg locate h
  rwa [locate_offsetOf, locate_offsetOf, Option.some.injEq] at e

theorem offsetOf_cmd_iff (loc : Loc) : (offsetOf loc).toNat = 0x000 ↔ loc = .cmd :=
  ⟨fun h => offsetOf_injective (BitVec.eq_of_toNat_eq h), fun h => h ▸ rfl⟩

theorem offsetOf_status_iff (loc : Loc) : (offsetOf loc).toNat = 0x004 ↔ loc = .status :=
  ⟨fun h => offsetOf_injective (BitVec.eq_of_toNat_eq h), fun h => h ▸ rfl⟩

theorem offsetOf_ctrl_iff (loc : Loc) : (offsetOf loc).toNat = 0x008 ↔ loc = .ctrl :=
  ⟨fun h => offsetOf_injective (BitVec.eq_of_toNat_eq h), fun h => h ▸ rfl⟩

theorem fWord_offset (i : FReg) (j : WordIdx) :
    (offsetOf (.fWord i j)).toNat = 0x400 + 0x20 * i.val + 4 * j.val := by
  rw [offsetOf, BitVec.toNat_ofNat, Nat.mod_eq_of_lt (by omega)]

theorem pX_offset (k : PReg) (j : WordIdx) : (offsetOf (.pX k j)).toNat = 0x800 + 0x80 * k.val + 4 * j.val := by
  rw [offsetOf, BitVec.toNat_ofNat, Nat.mod_eq_of_lt (by omega)]

theorem pY_offset (k : PReg) (j : WordIdx) : (offsetOf (.pY k j)).toNat = 0x820 + 0x80 * k.val + 4 * j.val := by
  rw [offsetOf, BitVec.toNat_ofNat, Nat.mod_eq_of_lt (by omega)]

theorem pInfo_offset (k : PReg) : (offsetOf (.pInfo k)).toNat = 0x840 + 0x80 * k.val := by
  rw [offsetOf, BitVec.toNat_ofNat, Nat.mod_eq_of_lt (by omega)]

theorem not_pointOffset_of_lt {o : Nat} (h : o < 0x800) : ¬ PointOffset o := by
  rintro ⟨k, hk⟩
  omega

/-- R61, R65 case 4: the read-only locations are STATUS and those at the offsets of P words and INFO words. -/
theorem readOnly_iff (loc : Loc) :
    readOnly loc = true ↔ (offsetOf loc).toNat = 0x004 ∨ PointOffset (offsetOf loc).toNat := by
  cases loc with
  | cmd | ctrl => exact iff_of_false Bool.false_ne_true (not_or.2 ⟨by decide, not_pointOffset_of_lt (by decide)⟩)
  | status => exact iff_of_true rfl (.inl rfl)
  | fWord i j =>
    rw [fWord_offset]
    exact iff_of_false Bool.false_ne_true (not_or.2 ⟨by omega, not_pointOffset_of_lt (by omega)⟩)
  | pX k j => exact iff_of_true rfl (.inr ⟨k, by rw [pX_offset]; omega⟩)
  | pY k j => exact iff_of_true rfl (.inr ⟨k, by rw [pY_offset]; omega⟩)
  | pInfo k => exact iff_of_true rfl (.inr ⟨k, by rw [pInfo_offset]; omega⟩)

theorem locatePoint_eq_none_iff (k : PReg) (m : Nat) : locatePoint k m = none ↔ 0x44 ≤ m := by
  unfold locatePoint
  split_ifs <;> simp <;> omega

/-- R61: the unmapped rest of the 128 bytes of each P register. -/
theorem unmappedOffset_iff (o : Nat) :
    UnmappedOffset o ↔ (0x00C ≤ o ∧ o < 0x400) ∨ (0x600 ≤ o ∧ o < 0x800) ∨ (0xA00 ≤ o ∧ o < 0x1000) ∨
      (0x800 ≤ o ∧ o < 0xA00 ∧ 0x44 ≤ (o - 0x800) % 0x80) := by
  have rest : (∃ k : PReg, 0x844 + 0x80 * k.val ≤ o ∧ o < 0x880 + 0x80 * k.val) ↔
      0x800 ≤ o ∧ o < 0xA00 ∧ 0x44 ≤ (o - 0x800) % 0x80 := by
    constructor
    · rintro ⟨k, hk⟩
      omega
    · intro h
      exact ⟨⟨(o - 0x800) / 0x80, by omega⟩, by simp only; omega⟩
  rw [UnmappedOffset, rest]

/-- R61: the map has no location exactly at the offsets listed as unmapped. -/
theorem locate_eq_none_iff (off : BitVec 12) : locate off = none ↔ UnmappedOffset off.toNat := by
  have lt : off.toNat < 0x1000 := off.isLt
  rw [unmappedOffset_iff]
  simp only [locate]
  split_ifs <;> simp only [locatePoint_eq_none_iff, false_iff, true_iff] <;> omega

/-! ### The accesses answered ERROR -/

/-- R65 cases 1 to 3: the access is no word access to a mapped word. -/
def Malformed (a : Access) : Prop :=
  accessWidth a ≠ 4 ∨ (accessOffset a).toNat % 4 ≠ 0 ∨ UnmappedOffset (accessOffset a).toNat

theorem accessRefused_of_malformed (s : State) {a : Access} (h : Malformed a) : accessRefused s a = true := by
  obtain width | align | unmapped := h
  · simp [accessRefused, width]
  · simp [accessRefused, align]
  · simp [accessRefused, (locate_eq_none_iff _).2 unmapped]

/-- R61, R65: every other access is a word access at the offset of a location. -/
theorem mapped_of_not_malformed {a : Access} (h : ¬ Malformed a) :
    accessWidth a = 4 ∧ ∃ loc, accessOffset a = offsetOf loc := by
  simp only [Malformed, not_or, not_not] at h
  obtain ⟨width, align, mapped⟩ := h
  rw [← locate_eq_none_iff] at mapped
  obtain ⟨loc, e⟩ := Option.ne_none_iff_exists'.1 mapped
  exact ⟨width, loc, (offsetOf_locate _ loc e align).symm⟩

/-- R37: some bit of 31:2 is set if they are not all 0. -/
theorem exists_reserved_of_ne_zero {v : U32} (h : v.extractLsb' 2 30 ≠ 0#30) :
    ∃ b : Fin 32, 2 ≤ b.val ∧ v.getLsbD b = true := by
  by_contra none
  push Not at none
  refine h (BitVec.eq_of_getLsbD_eq fun b hb => ?_)
  have clear := none ⟨2 + b, by omega⟩ (by simp only; omega)
  rw [BitVec.getLsbD_extractLsb', BitVec.getLsbD_zero, Bool.eq_false_iff.2 clear, Bool.and_false]

/-- R65 cases 4, 6 and 7 at a location, in the offsets of R61. -/
theorem writeRefused_iff (s : State) (loc : Loc) (v : U32) :
    writeRefused s loc v = true ↔
      ((offsetOf loc).toNat = 0x004 ∨ PointOffset (offsetOf loc).toNat) ∨
      ((offsetOf loc).toNat = 0x000 ∧ s.err = true) ∨
      ((offsetOf loc).toNat = 0x008 ∧ ∃ b : Fin 32, 2 ≤ b.val ∧ v.getLsbD b = true) := by
  have reserved : (∃ b : Fin 32, 2 ≤ b.val ∧ v.getLsbD b = true) ↔ v.extractLsb' 2 30 ≠ 0#30 :=
    ⟨reserved_ne_zero, exists_reserved_of_ne_zero⟩
  rw [← readOnly_iff, offsetOf_cmd_iff, offsetOf_ctrl_iff, reserved]
  simp [writeRefused, or_assoc]

/-- R65 for reads. -/
theorem accessRefused_read_iff (s : State) (off : BitVec 12) (width : Nat) :
    accessRefused s (.read off width) = true ↔
      Malformed (.read off width) ∨ (s.busy = true ∧ off.toNat ≠ 0x004) := by
  by_cases bad : Malformed (.read off width)
  · exact iff_of_true (accessRefused_of_malformed s bad) (.inl bad)
  · rw [or_iff_right bad]
    obtain ⟨rfl, loc, rfl⟩ := mapped_of_not_malformed bad
    rw [accessRefused_read, ne_eq, offsetOf_status_iff, Bool.and_eq_true, bne_iff_ne]

/-- R65 for writes. -/
theorem accessRefused_write_iff (s : State) (off : BitVec 12) (width : Nat) (v : U32) :
    accessRefused s (.write off width v) = true ↔
      Malformed (.write off width v) ∨ (off.toNat = 0x004 ∨ PointOffset off.toNat) ∨ s.busy = true ∨
      (off.toNat = 0x000 ∧ s.err = true) ∨ (off.toNat = 0x008 ∧ ∃ b : Fin 32, 2 ≤ b.val ∧ v.getLsbD b = true) := by
  by_cases bad : Malformed (.write off width v)
  · exact iff_of_true (accessRefused_of_malformed s bad) (.inl bad)
  · rw [or_iff_right bad, or_left_comm]
    obtain ⟨rfl, loc, rfl⟩ := mapped_of_not_malformed bad
    rw [accessRefused_write, Bool.or_eq_true, writeRefused_iff]

/-- Settles O17: cases 1 to 3 of R65 make an access malformed, the others concern the location it names. -/
theorem refusedAccessesAreTheSevenCases : Obligations.RefusedAccessesAreTheSevenCases := by
  refine ⟨fun s off width => ?_, fun s off width v => ?_, fun s a => sameBlock_of_refused⟩
  · rw [accessRefused_read_iff, Malformed, or_assoc, or_assoc]
    rfl
  · rw [accessRefused_write_iff, Malformed, or_assoc, or_assoc]
    rfl

/-- Settles O18: a refused access keeps the block, and `answerError` says what it records for a read and for a write. -/
theorem refusedAccessesChangeNothing : Obligations.RefusedAccessesChangeNothing := by
  intro s a h
  refine ⟨sameBlock_of_refused h, ?_⟩
  rw [hostStep_refused h]
  cases a with
  | read off width => exact ⟨rfl, _, rfl⟩
  | write off width v => exact ⟨rfl, rfl⟩

/-! ### A busy block -/

/-- R64: a busy block accepts no access but the word read of STATUS. -/
theorem accessRefused_busy_iff {s : State} (busy : s.busy = true) (a : Access) :
    accessRefused s a = false ↔ a = .read 0x004#12 4 := by
  constructor
  · intro accepted
    have mapped := mapped_of_not_malformed fun bad =>
      Bool.false_ne_true (accepted.symm.trans (accessRefused_of_malformed s bad))
    cases a with
    | write off width v =>
      obtain ⟨rfl, loc, rfl⟩ := mapped
      rw [accessRefused_write, busy] at accepted
      cases accepted
    | read off width =>
      obtain ⟨rfl, loc, rfl⟩ := mapped
      rw [accessRefused_read, busy, Bool.true_and, bne_eq_false_iff_eq] at accepted
      rw [accepted]
      rfl
  · rintro rfl
    exact (accessRefused_read s .status).trans (Bool.and_false _)

/-- R64: an access of a busy block touches the model's own two fields at most. -/
theorem hostStep_busy {s : State} (busy : s.busy = true) (a : Access) :
    ∃ answer count, hostStep s a = { s with response := answer, freeReads := count } := by
  cases refused : accessRefused s a with
  | true =>
    obtain ⟨r, n, e⟩ := answerError_eq s a
    exact ⟨some r, n, (hostStep_refused refused).trans e⟩
  | false =>
    obtain rfl := (accessRefused_busy_iff busy a).1 refused
    exact ⟨_, s.freeReads, hostStep_read (loc := .status) (Bool.and_false _)⟩

/-- Settles O26: the one access accepted is a read, and neither it nor a refused one touches the block. -/
theorem onlyStatusIsReadableWhileBusy : Obligations.OnlyStatusIsReadableWhileBusy := by
  intro s a busy
  obtain ⟨r, n, e⟩ := hostStep_busy busy a
  exact ⟨accessRefused_busy_iff busy a, e ▸ { sameBlock_refl s with }⟩

/-! ### The window on the bus -/

/-- R60: an address in the window is at its distance from BASE. -/
theorem windowOffset_inside (off : BitVec 12) : windowOffset (Config.base + off.toNat) = some off := by
  have lt : off.toNat < Config.windowBytes := off.isLt
  rw [windowOffset, if_pos (by omega), Nat.add_sub_cancel_left, BitVec.ofNat_toNat, BitVec.setWidth_eq]

/-- R60: no other address is in it (assumption log 7). -/
theorem windowOffset_outside {addr : Nat} (h : addr < Config.base ∨ Config.base + 4096 ≤ addr) :
    windowOffset addr = none := by
  rw [windowOffset, Config.windowBytes, if_neg (by omega)]

/-- Settles O16: BASE is a number of pages, and an access goes to the offset of its address in the window. -/
theorem windowStartsAtBase : Obligations.WindowStartsAtBase := by
  refine ⟨Nat.mul_mod_right _ _, fun off width => ?_, fun off width v => ?_, fun addr width v h => ⟨?_, ?_⟩⟩
  · rw [memRead, windowOffset_inside, Option.map_some]
  · rw [memWrite, windowOffset_inside, Option.map_some]
  · rw [memRead, windowOffset_outside h, Option.map_none]
  · rw [memWrite, windowOffset_outside h, Option.map_none]

end Sys2Proof.Scope
end

section
/-! SUPPORT. What an idle block answers, word by word (20_memory.md R63, R66 to R70). -/

namespace Sys2Proof.Scope

open Sys2Proof.Machine

/-! ### Reads -/

/-- R62, R67: an idle block answers every mapped word. -/
theorem hostStep_read_idle {s : State} (idle : s.busy = false) (loc : Loc) :
    hostStep s (.read (offsetOf loc) 4) = { s with response := some (.readOkay (readLoc s loc)) } :=
  hostStep_read (by rw [idle, Bool.false_and])

theorem getWord_zero (j : WordIdx) : getWord 0#256 j = 0#32 := by
  rw [getWord_eq, BitVec.toNat_ofNat, Nat.zero_mod, Nat.zero_div]

theorem readLoc_fWord (s : State) (i : FReg) (j : WordIdx) :
    readLoc s (.fWord i j) = BitVec.ofNat 32 ((s.readF i).toNat / 2 ^ (224 - 32 * j.val)) := getWord_eq _ _

section PointWords
variable {s : State} {k : PReg} {x y : U256}

theorem readLoc_pX_aff (h : s.readP k = .aff x y) (j : WordIdx) :
    readLoc s (.pX k j) = BitVec.ofNat 32 (x.toNat / 2 ^ (224 - 32 * j.val)) := by
  rw [readLoc, h, windowX, getWord_eq]

theorem readLoc_pY_aff (h : s.readP k = .aff x y) (j : WordIdx) :
    readLoc s (.pY k j) = BitVec.ofNat 32 (y.toNat / 2 ^ (224 - 32 * j.val)) := by
  rw [readLoc, h, windowY, getWord_eq]

theorem readLoc_pInfo_aff (h : s.readP k = .aff x y) : readLoc s (.pInfo k) = 0#32 := by
  rw [readLoc, h]
  rfl

theorem readLoc_pX_inf (h : s.readP k = .inf) (j : WordIdx) : readLoc s (.pX k j) = 0#32 := by
  rw [readLoc, h, windowX, getWord_zero]

theorem readLoc_pY_inf (h : s.readP k = .inf) (j : WordIdx) : readLoc s (.pY k j) = 0#32 := by
  rw [readLoc, h, windowY, getWord_zero]

theorem readLoc_pInfo_inf (h : s.readP k = .inf) : readLoc s (.pInfo k) = 1#32 := by
  rw [readLoc, h]
  rfl

end PointWords

/-- Settles O19: an idle block answers `readLoc` of the location at the offset, whose value is said location by location. -/
theorem readsReturnTheMappedWord : Obligations.ReadsReturnTheMappedWord := by
  intro s idle
  have reads := hostStep_read_idle idle
  refine ⟨reads .cmd, reads .status, reads .ctrl, fun i j => ?_, fun k j x y h => ?_, fun k j h => ?_⟩
  · rw [← readLoc_fWord]
    exact reads (.fWord i j)
  · rw [← readLoc_pX_aff h, ← readLoc_pY_aff h, ← readLoc_pInfo_aff h]
    exact ⟨reads (.pX k j), reads (.pY k j), reads (.pInfo k)⟩
  · refine ⟨(reads (.pX k j)).trans ?_, (reads (.pY k j)).trans ?_, (reads (.pInfo k)).trans ?_⟩
    · rw [readLoc_pX_inf h]
    · rw [readLoc_pY_inf h]
    · rw [readLoc_pInfo_inf h]

/-! ### Writes -/

/-- R63: an idle block accepts every write of a word of an F register. -/
theorem hostStep_write_fWord {s : State} (idle : s.busy = false) (i : FReg) (j : WordIdx) (v : U32) :
    hostStep s (.write (offsetOf (.fWord i j)) 4 v) =
      { s.writeF i (setWord (s.readF i) j v) with response := some .writeOkay } :=
  hostStep_write (by rw [idle]; rfl)

/-- Settles O21: the bits of `setWord`, word j being the 32 bits from `224 - 32 j` on. -/
theorem fieldWordWritesReplaceOneWord : Obligations.FieldWordWritesReplaceOneWord := by
  intro s i j v idle
  refine ⟨_, hostStep_write_fWord idle i j v, fun b hb => ?_⟩
  have top : wordShift j + 32 = 256 - 32 * j.val := by
    unfold wordShift
    omega
  rw [setWord_getLsbD _ _ _ hb, top, wordShift]

/-- Settles O23: an idle block with no error standing refuses no write to CMD. -/
theorem commandWriteStartsTheEngine : Obligations.CommandWriteStartsTheEngine := by
  intro s w idle ok
  exact hostStep_write (loc := .cmd) (by rw [idle, writeRefused, ok]; rfl)

/-! ### Loading a register word by word -/

/-- The event of the host's write of word j of `v` to `F[i]` (R66, R70). -/
def wordWrite (i : FReg) (v : U256) (j : WordIdx) : Event := .access (.write (offsetOf (.fWord i j)) 4 (getWord v j))

/-- The value of a register after some of the words of `v` have been written over it, one after the other. -/
def overwrite (v : U256) (js : List WordIdx) (x : U256) : U256 := js.foldl (fun x j => setWord x j (getWord v j)) x

theorem loadWrites_events (i : FReg) (v : U256) :
    (loadWrites i v).map Event.access = (List.finRange 8).map (wordWrite i v) := by
  rw [loadWrites, List.map_map]
  rfl

/-- R63: the words written hold those of `v`, the others are as before. -/
theorem getWord_overwrite (v : U256) (i : WordIdx) (js : List WordIdx) (x : U256) :
    getWord (overwrite v js x) i = if i ∈ js then getWord v i else getWord x i := by
  induction js generalizing x with
  | nil => rfl
  | cons j js ih =>
    rw [overwrite, List.foldl_cons, ← overwrite, ih, getWord_setWord]
    by_cases e : i = j <;> simp [e]

theorem overwrite_all (v x : U256) : overwrite v (List.finRange 8) x = v :=
  ext_getWord fun i => by rw [getWord_overwrite, if_pos (List.mem_finRange i)]

/-- The state in which an accepted write leaves the block, `x` then in `F[i]` and `rest` the events to come (R63). -/
def afterWrite (s : State) (i : FReg) (x : U256) (rest : List Event) : State :=
  { s.writeF i x with agenda := rest, response := some .writeOkay }

theorem afterWrite_afterWrite (s : State) (i : FReg) (x y : U256) (mid rest : List Event) :
    afterWrite (afterWrite s i x mid) i y rest = afterWrite s i y rest := by
  simp [afterWrite, State.writeF]

theorem readF_afterWrite (s : State) (i : FReg) (x : U256) (rest : List Event) : (afterWrite s i x rest).readF i = x :=
  s.readF_writeF_same i x

/-- One word write of a load, as a step. -/
theorem step_wordWrite {s : State} (idle : s.busy = false) {i : FReg} {v : U256} {j : WordIdx} {rest : List Event}
    (h : s.agenda = wordWrite i v j :: rest) :
    step s = .next (afterWrite s i (overwrite v [j] (s.readF i)) rest) := by
  have idle' : ({ s with agenda := rest } : State).busy = false := idle
  rw [step_access h, hostStep_write_fWord idle']
  rfl

/-- R70: any number of word writes, at least one, leave their words in the register of an idle block. -/
theorem run_wordWrites (i : FReg) (v : U256) (rest : List Event) (j : WordIdx) (js : List WordIdx) {s : State}
    (idle : s.busy = false) (h : s.agenda = (j :: js).map (wordWrite i v) ++ rest) :
    Host.Core.run Sys2Proof.core (js.length + 1) s = .next (afterWrite s i (overwrite v (j :: js) (s.readF i)) rest) := by
  induction js generalizing j s with
  | nil => rw [run_succ_next _ (step_wordWrite idle h)]; rfl
  | cons k js ih =>
    have later := ih k idle rfl (s := afterWrite s i (overwrite v [j] (s.readF i)) ((k :: js).map (wordWrite i v) ++ rest))
    rw [afterWrite_afterWrite, readF_afterWrite] at later
    exact (run_succ_next _ (step_wordWrite idle h)).trans later

/-- Settles O22: eight word writes leave all eight words, so the register holds the value whatever it held before. -/
theorem eightWordWritesLoadARegister : Obligations.EightWordWritesLoadARegister := by
  intro s i v rest idle
  have words : List.finRange 8 = 0 :: (List.finRange 7).map Fin.succ := List.finRange_succ
  have run := run_wordWrites i v rest 0 ((List.finRange 7).map Fin.succ)
    (s := { s with agenda := (loadWrites i v).map Event.access ++ rest }) idle (by rw [loadWrites_events, words])
  rwa [← words, overwrite_all] at run

end Sys2Proof.Scope
end

section
/-! SUPPORT. A command in flight: the accesses delivered before its completion step, and its end (20_memory.md R64, R68, R72,
R78, 30_encoding.md R91). -/

namespace Sys2Proof.Scope

open Sys2Proof.Machine

/-! ### The model's own fields `response` and `freeReads` -/

/-- The state with another last answer and another count of free values, the two fields of the host's side that an access of a
busy block can change (assumption log 2 and 3). -/
def withAnswer (answer : Option Response) (count : Nat) (s : State) : State :=
  { s with response := answer, freeReads := count }

section Answer
variable (answer : Option Response) (count : Nat)

/-- What a rule answered for two states that differ in those fields: the same error, or states that differ in them alone. -/
def AnswersAlike (x y : Except CmdError State) : Prop := y = withAnswer answer count <$> x

theorem answersAlike_ok (u : State) : AnswersAlike answer count (.ok u) (.ok (withAnswer answer count u)) := rfl

theorem answersAlike_error (e : CmdError) : AnswersAlike answer count (.error e) (.error e) := rfl

variable {answer count}

theorem answersAlike_bind {α : Type} {x : Except CmdError α} {f g : α → Except CmdError State}
    (h : ∀ a, AnswersAlike answer count (f a) (g a)) : AnswersAlike answer count (x >>= f) (x >>= g) := by
  cases x with
  | error e => exact answersAlike_error answer count e
  | ok a => exact h a

theorem answersAlike_ite {c : Prop} [Decidable c] {x y x' y' : Except CmdError State} (h : AnswersAlike answer count x y)
    (h' : AnswersAlike answer count x' y') : AnswersAlike answer count (if c then x else x') (if c then y else y') := by
  split
  · exact h
  · exact h'

theorem finish_withAnswer {s t : State} {x y : Except CmdError State} (h : finish s x = .next t)
    (alike : AnswersAlike answer count x y) :
    finish (withAnswer answer count s) y = .next (withAnswer answer count t) := by
  obtain ⟨e, rfl, rfl⟩ | ⟨u, rfl, rfl⟩ := finish_cases h <;> (rw [alike]; rfl)

/-- R45, R93: no command reads the two fields or leaves them changed. -/
theorem exec_withAnswer {i : Instr} {s t : State} (h : exec i s = .next t) :
    exec i (withAnswer answer count s) = .next (withAnswer answer count t) := by
  cases i with
  | nop | fmov | fsel | feq | fred | pinf | pldg | pmov | pisinf | verify =>
    obtain rfl := Host.Outcome.next.inj h
    rfl
  | fexp | fisq | pgetx | pgety | keygen | padd | pdbl | pmul | plift =>
    exact finish_withAnswer h (answersAlike_bind fun _ => answersAlike_ok answer count _)
  | fadd | fsub | fmul | finv | fsqrt =>
    exact finish_withAnswer h (answersAlike_bind fun _ => answersAlike_bind fun _ => answersAlike_ok answer count _)
  | pset rd ra rb =>
    refine finish_withAnswer h (answersAlike_bind fun x => answersAlike_bind fun y => ?_)
    exact answersAlike_ite (answersAlike_ok answer count _) (answersAlike_error answer count _)
  | thash tag rd ra cnt =>
    exact finish_withAnswer h (answersAlike_ite (answersAlike_ok answer count _) (answersAlike_error answer count _))
  | sign rd rc =>
    exact finish_withAnswer h
      (answersAlike_ite (answersAlike_bind fun _ => answersAlike_ok answer count _) (answersAlike_error answer count _))

/-- R78, R96: the same of the engine's turn. -/
theorem engineTurn_withAnswer {s t : State} (h : engineTurn s = .next t) :
    engineTurn (withAnswer answer count s) = .next (withAnswer answer count t) := by
  cases busy : s.busy with
  | false =>
    rw [engineTurn_idle busy] at h
    rw [engineTurn_idle (s := withAnswer answer count s) busy, Host.Outcome.next.inj h]
  | true =>
    rw [engineTurn_busy busy] at h
    rw [engineTurn_busy (s := withAnswer answer count s) busy]
    cases word : decode s.cmdreg with
    | error e =>
      rw [completion_error word] at h
      rw [completion_error (s := withAnswer answer count s) word, ← Host.Outcome.next.inj h]
      rfl
    | ok i =>
      rw [completion_ok word] at h
      exact (completion_ok (s := withAnswer answer count s) word).trans (exec_withAnswer h)

end Answer

/-! ### The end of a command -/

/-- R91, R262: a command ends with BUSY = 0 and DONE = 1, whether it completes or fails. -/
theorem finish_ends {s t : State} {r : Except CmdError State} (h : finish s r = .next t) :
    t.busy = false ∧ t.done = true := by
  obtain ⟨e, -, rfl⟩ | ⟨u, -, rfl⟩ := finish_cases h <;> exact ⟨rfl, rfl⟩

/-- R91: every command gives a next state. -/
theorem exec_next (i : Instr) (s : State) : ∃ t, exec i s = .next t := by
  obtain ⟨r, e⟩ := exec_eq_finish i s
  rw [e]
  exact finish_next s r

/-- R91, R96: the completion step is the end of some rule, the decoded command's or the error entry of an illegal word. -/
theorem completion_eq_finish (s : State) : ∃ r, completion s = finish s r := by
  cases word : decode s.cmdreg with
  | error e => exact ⟨.error .illegalCmd, completion_error word⟩
  | ok i =>
    rw [completion_ok word]
    exact exec_eq_finish i s

/-- R78, R91: the engine's turn ends a command in flight. -/
theorem engineTurn_ends {s : State} (busy : s.busy = true) :
    ∃ t, engineTurn s = .next t ∧ t.busy = false ∧ t.done = true := by
  obtain ⟨r, e⟩ := completion_eq_finish s
  obtain ⟨t, h⟩ := finish_next s r
  exact ⟨t, (engineTurn_busy busy).trans (e.trans h), finish_ends h⟩

/-! ### Accesses before the completion step -/

theorem run_one {s t : State} (h : step s = .next t) : Host.Core.run Sys2Proof.core 1 s = .next t := run_succ_next 0 h

/-- R64: an access delivered to a busy block, as a step. -/
theorem step_busy_access {s : State} {a : Access} {rest : List Event} (busy : s.busy = true)
    (h : s.agenda = .access a :: rest) :
    ∃ answer count, step s = .next (withAnswer answer count { s with agenda := rest }) := by
  obtain ⟨answer, count, e⟩ := hostStep_busy (s := { s with agenda := rest }) busy a
  exact ⟨answer, count, (step_access h).trans (congrArg _ e)⟩

/-- R64, R78: accesses delivered to a busy block are taken off the agenda and leave it as it was, but for the two fields. -/
theorem run_busy_accesses (accesses : List Access) (rest : List Event) (k : Nat) {s : State} (busy : s.busy = true)
    (h : s.agenda = accesses.map Event.access ++ rest) :
    ∃ answer count, Host.Core.run Sys2Proof.core (accesses.length + k) s =
      Host.Core.run Sys2Proof.core k (withAnswer answer count { s with agenda := rest }) := by
  induction accesses generalizing s with
  | nil =>
    obtain rfl : rest = s.agenda := h.symm
    exact ⟨s.response, s.freeReads, by rw [List.length_nil, Nat.zero_add]; rfl⟩
  | cons a accesses ih =>
    obtain ⟨r, n, first⟩ := step_busy_access busy h
    obtain ⟨answer, count, later⟩ := ih busy rfl
      (s := withAnswer r n { s with agenda := accesses.map Event.access ++ rest })
    refine ⟨answer, count, ?_⟩
    rw [List.length_cons, Nat.succ_add]
    exact (run_succ_next _ first).trans later

/-- Settles O13: the accesses change the two fields, and the completion step neither reads nor changes them. -/
theorem pendingAccessesNeverChangeAResult : Obligations.PendingAccessesNeverChangeAResult := by
  intro s accesses rest busy
  obtain ⟨t, turn, -⟩ := engineTurn_ends (s := { s with agenda := rest }) busy
  obtain ⟨answer, count, through⟩ := run_busy_accesses accesses (.engine :: rest) 1
    (s := { s with agenda := accesses.map Event.access ++ .engine :: rest }) busy rfl
  have turn' := engineTurn_withAnswer (answer := answer) (count := count) turn
  have last := run_one ((step_engine rfl (s := withAnswer answer count { s with agenda := .engine :: rest })).trans turn')
  exact ⟨t, answer, count, (step_engine rfl).trans turn, through.trans last⟩

/-- R68, R290, R300: a command in flight ends when the events to come have passed and the engine has moved, with DONE = 1
unless a reset was among them. -/
theorem busy_ends (events : List Event) {s : State} (busy : s.busy = true) (h : s.agenda = events) :
    ∃ (k : Nat) (t : State), k ≤ events.length + 1 ∧ Host.Core.run Sys2Proof.core k s = .next t ∧ t.busy = false ∧
      (Event.resetInput ∉ events → t.done = true) := by
  induction events generalizing s with
  | nil =>
    obtain ⟨t, turn, idle, done⟩ := engineTurn_ends busy
    exact ⟨1, t, Nat.le_refl _, run_one ((step_nil h).trans turn), idle, fun _ => done⟩
  | cons e rest ih =>
    cases e with
    | access a =>
      obtain ⟨r, n, first⟩ := step_busy_access busy h
      obtain ⟨k, t, bound, run, idle, done⟩ := ih busy rfl (s := withAnswer r n { s with agenda := rest })
      exact ⟨k + 1, t, Nat.succ_le_succ bound, (run_succ_next k first).trans run, idle,
        fun free => done fun mem => free (.tail _ mem)⟩
    | engine =>
      obtain ⟨t, turn, idle, done⟩ := engineTurn_ends (s := { s with agenda := rest }) busy
      exact ⟨1, t, Nat.succ_le_succ (Nat.zero_le _), run_one ((step_engine h).trans turn), idle, fun _ => done⟩
    | resetInput =>
      exact ⟨1, _, Nat.succ_le_succ (Nat.zero_le _), run_one (step_reset h), rfl, fun free => absurd (.head _) free⟩

/-- Settles O14: both clauses are the end of a command in flight. -/
theorem acceptedCommandsFinish : Obligations.AcceptedCommandsFinish := by
  refine ⟨fun s busy free => ?_, fun s busy => ?_⟩
  · obtain ⟨k, t, bound, run, idle, done⟩ := busy_ends s.agenda busy rfl
    exact ⟨k, t, bound, run, idle, done free⟩
  · obtain ⟨k, t, bound, run, idle, -⟩ := busy_ends s.agenda busy rfl
    exact ⟨k, t, bound, run, idle⟩

/-! ### A command from its write to its end -/

/-- R91: with a command in flight the engine's event runs the command that CMDREG decodes to. -/
theorem step_engine_runs {s : State} {i : Instr} {rest : List Event} (busy : s.busy = true) (word : decode s.cmdreg = .ok i)
    (h : s.agenda = .engine :: rest) : step s = exec i { s with agenda := rest } := by
  rw [step_engine h, engineTurn_busy (s := { s with agenda := rest }) busy]
  exact completion_ok word

/-- Settles O9: the first step accepts the word, the second is the completion step of the command it decodes to. -/
theorem commandWriteThenEngineRunsTheCommand : Obligations.CommandWriteThenEngineRunsTheCommand := by
  intro s w i rest idle ok word agenda
  have accepted := (step_access agenda).trans
    (congrArg _ (commandWriteStartsTheEngine { s with agenda := .engine :: rest } w idle ok))
  obtain ⟨t, runs⟩ := exec_next i
    { s with cmdreg := w, busy := true, done := false, agenda := rest, response := some .writeOkay }
  rw [runs]
  have completed := step_engine_runs rfl word rfl (rest := rest)
    (s := { s with cmdreg := w, busy := true, done := false, agenda := .engine :: rest, response := some .writeOkay })
  exact (run_succ_next 1 accepted).trans (run_one (completed.trans runs))

end Sys2Proof.Scope
end

section
/-! SUPPORT. The decoder, the encoder and the command table of R95 against each other (30_encoding.md R90 to R96). -/

namespace Sys2Proof.Scope

open Sys2Proof.Machine Sys2Proof.Laws

/-! ### From a command to its word and back -/

/-- R95: the branch of a command's opcode reads every field back, and a relation it checks is the one `wf` demands. -/
theorem decodeCommand_commandOf {i : Instr} (wf : i.wf = true) : decodeCommand (commandOf i) = .ok i := by
  cases i with
  | nop => rfl
  | fmov | fsel | feq | finv | fexp | fsqrt | fisq | keygen | verify =>
    simp [decodeCommand, commandOf, zeroField_zero, fField_fBits]
  | fadd | fsub | fmul | fred =>
    simp [decodeCommand, commandOf, zeroField_zero, fField_fBits, modulusField_modulusBits]
  | pinf | pldg | pmov | pset | pgetx | pgety | pisinf | plift | padd | pdbl | pmul =>
    simp [decodeCommand, commandOf, zeroField_zero, fField_fBits, pField_pBits]
  | thash tag rd ra cnt =>
    have inRange : hashInRange ra cnt = true := wf
    simp [decodeCommand, commandOf, zeroField_zero, fField_fBits, tagField_tagBits, inRange]
  | sign rd rc ra rb =>
    have differ : destinationsDiffer rd rc = true := wf
    simp [decodeCommand, commandOf, zeroField_zero, fField_fBits, differ]

/-- Settles O2: the fields survive the word, and the decoder's branch reads them back. -/
theorem decodeInvertsEncode : Obligations.DecodeInvertsEncode := fun i wf => by
  rw [decode, encode, fieldsOf_wordOf, decodeCommand_commandOf wf]

/-- Settles O6: each word is the encoding of its command. -/
theorem exampleWordsDecode : Obligations.ExampleWordsDecode :=
  ⟨decodeInvertsEncode (.fadd .p 3 1 2) rfl, decodeInvertsEncode (.fadd .n 3 1 2) rfl, decodeInvertsEncode (.pmul 1 0 4) rfl,
    decodeInvertsEncode (.thash .challenge 5 8 3) rfl, decodeInvertsEncode (.sign 2 3 0 1) rfl,
    decodeInvertsEncode (.verify 0 4 2 3) rfl, decodeInvertsEncode .nop rfl⟩

/-! ### The command table -/

/-- R95: every command agrees with a row of the table. -/
theorem opcodeRow (i : Instr) : OpcodeRow.Statement i := by
  cases i with
  | nop => exact OpcodeRow.nop
  | fmov rd ra => exact OpcodeRow.fmov rd ra
  | fsel rd ra rb => exact OpcodeRow.fsel rd ra rb
  | feq ra rb => exact OpcodeRow.feq ra rb
  | fadd m rd ra rb => exact OpcodeRow.fadd m rd ra rb
  | fsub m rd ra rb => exact OpcodeRow.fsub m rd ra rb
  | fmul m rd ra rb => exact OpcodeRow.fmul m rd ra rb
  | fred m rd ra => exact OpcodeRow.fred m rd ra
  | finv rd ra => exact OpcodeRow.finv rd ra
  | fexp rd ra rb => exact OpcodeRow.fexp rd ra rb
  | fsqrt rd ra => exact OpcodeRow.fsqrt rd ra
  | fisq ra => exact OpcodeRow.fisq ra
  | pinf rd => exact OpcodeRow.pinf rd
  | pldg rd => exact OpcodeRow.pldg rd
  | pmov rd ra => exact OpcodeRow.pmov rd ra
  | pset rd ra rb => exact OpcodeRow.pset rd ra rb
  | pgetx rd ra => exact OpcodeRow.pgetx rd ra
  | pgety rd ra => exact OpcodeRow.pgety rd ra
  | pisinf ra => exact OpcodeRow.pisinf ra
  | plift rd ra => exact OpcodeRow.plift rd ra
  | padd rd ra rb => exact OpcodeRow.padd rd ra rb
  | pdbl rd ra => exact OpcodeRow.pdbl rd ra
  | pmul rd ra rb => exact OpcodeRow.pmul rd ra rb
  | thash tag rd ra cnt => exact OpcodeRow.thash tag rd ra cnt
  | keygen rd ra => exact OpcodeRow.keygen rd ra
  | sign rd rc ra rb => exact OpcodeRow.sign rd rc ra rb
  | verify ra rb rc rd => exact OpcodeRow.verify ra rb rc rd

/-- Settles O5. -/
theorem commandWordIsTheStatedSum : Obligations.CommandWordIsTheStatedSum := fun i => by
  obtain ⟨row, member, name, op, -⟩ := opcodeRow i
  exact ⟨row, member, name, op, wordOf_toNat (commandOf i)⟩

/-! ### The legality test -/

/-- The row of an opcode in the table of R95. -/
def rowOf (op : Byte) : Option OpRow := opTable.find? fun row => row.op == op

/-- R95: no two rows share an opcode. -/
theorem rowOf_op : ∀ row ∈ opTable, rowOf row.op = some row := by decide

theorem of_rowOf {op : Byte} {row : OpRow} (found : rowOf op = some row) : row ∈ opTable ∧ row.op = op :=
  ⟨List.mem_of_find?_eq_some found, by simpa using List.find?_some found⟩

/-- R95: `imm` alone is a select, in the rows that R96 cases 4 and 5 name. -/
theorem selects_iff : ∀ row ∈ opTable, (row.rd ≠ .select ∧ row.ra ≠ .select ∧ row.rb ≠ .select ∧ row.rc ≠ .select) ∧
    (row.imm = .select ↔ row.op ∈ [0x10#8, 0x11#8, 0x12#8, 0x13#8] ∨ row.op = 0x30#8) := by decide

/-- The legality test of R96 on the fields of a command, read by the row of its opcode: `marks` holds cases 2 to 5, `hash`
case 6 and `sign` case 7. -/
structure Passes (row : OpRow) (c : Command) : Prop where
  marks : ∀ f ∈ markedFields row c, MarkHolds f
  hash : c.op = 0x30#8 → c.ra.toNat + c.rc.toNat ≤ 16
  sign : c.op = 0x41#8 → c.rd ≠ c.rc

/-- R96 cases 2 to 5 as `legal` tests them: the zero fields, the P fields, the select in `imm`. -/
theorem marks_iff {row : OpRow} (member : row ∈ opTable) (c : Command) :
    (∀ f ∈ markedFields row c, MarkHolds f) ↔
      (∀ f ∈ markedFields row c, f.1 = .zero → f.2 = 0) ∧ (∀ f ∈ markedFields row c, f.1 = .p → f.2 < 4) ∧
        (row.imm = .select → c.imm.toNat < 2) := by
  obtain ⟨⟨rd, ra, rb, rc⟩, -⟩ := selects_iff row member
  have select : (∀ f ∈ markedFields row c, f.1 = .select → f.2 < 2) ↔ (row.imm = .select → c.imm.toNat < 2) := by
    simp [markedFields, rd, ra, rb, rc]
  simp only [MarkHolds, imp_and, forall_and, select]

/-- R96 case 1. -/
theorem legal_eq_false {w : U32} (h : rowOf (fieldsOf w).op = none) : legal w = false := by
  simp only [rowOf] at h
  simp only [legal, h]

/-- R96: a word whose opcode has a row is legal if and only if its fields pass that row's tests. -/
theorem legal_iff {w : U32} {row : OpRow} (found : rowOf (fieldsOf w).op = some row) :
    legal w = true ↔ Passes row (fieldsOf w) := by
  obtain ⟨member, op⟩ := of_rowOf found
  obtain ⟨-, select⟩ := selects_iff row member
  have marks := marks_iff member (fieldsOf w)
  rw [select, op] at marks
  simp only [rowOf] at found
  simp only [legal, found, Bool.not_eq_true', Bool.or_eq_false_iff, Bool.and_eq_false_imp, Bool.and_eq_true,
    List.any_eq_false, List.contains_iff_mem, beq_iff_eq, bne_iff_ne, beq_eq_false_iff_ne, decide_eq_true_eq,
    decide_eq_false_iff_not, not_and, not_le, not_lt, ne_eq, not_not]
  constructor
  · rintro ⟨⟨⟨⟨⟨zero, point⟩, modulus⟩, tag⟩, hash⟩, sign⟩
    exact ⟨marks.2 ⟨zero, point, Or.rec modulus tag⟩, hash, sign⟩
  · rintro ⟨m, hash, sign⟩
    obtain ⟨zero, point, select⟩ := marks.1 m
    exact ⟨⟨⟨⟨⟨zero, point⟩, fun h => select (.inl h)⟩, fun h => select (.inr h)⟩, hash⟩, sign⟩

/-- R96 case 6: only THASH has its opcode, and a well-formed one stays within the file. -/
theorem hash_of_wf {i : Instr} (wf : i.wf = true) (op : (commandOf i).op = 0x30#8) :
    (commandOf i).ra.toNat + (commandOf i).rc.toNat ≤ 16 := by
  cases i with
  | thash tag rd ra cnt =>
    have bound : ra.val + cnt.val ≤ 16 := of_decide_eq_true wf
    simpa only [commandOf, fBits_toNat] using bound
  | _ => simp [commandOf] at op

/-- R96 case 7: only SIGN has its opcode, and the destinations of a well-formed one differ. -/
theorem sign_of_wf {i : Instr} (wf : i.wf = true) (op : (commandOf i).op = 0x41#8) :
    (commandOf i).rd ≠ (commandOf i).rc := by
  cases i with
  | sign rd rc ra rb =>
    have differ : rd ≠ rc := of_decide_eq_true wf
    intro same
    have same' : fField (fBits rd) = fField (fBits rc) := congrArg fField same
    rw [fField_fBits, fField_fBits] at same'
    exact differ same'
  | _ => simp [commandOf] at op

/-- R95, R96: the word of a well-formed command passes the tests of its row. -/
theorem legal_encode {i : Instr} (wf : i.wf = true) : legal (encode i) = true := by
  obtain ⟨row, member, -, op, marks⟩ := opcodeRow i
  have found := rowOf_op row member
  rw [op, ← fieldsOf_wordOf (commandOf i)] at found
  refine (legal_iff found).2 ?_
  rw [fieldsOf_wordOf]
  exact ⟨marks, hash_of_wf wf, sign_of_wf wf⟩

/-! ### The marks of the five fields -/

theorem markHolds_zero_iff (n : Nat) : MarkHolds (.zero, n) ↔ n = 0 := by simp [MarkHolds]

theorem markHolds_point_iff (n : Nat) : MarkHolds (.p, n) ↔ n < 4 := by simp [MarkHolds]

theorem markHolds_select_iff (n : Nat) : MarkHolds (.select, n) ↔ n < 2 := by simp [MarkHolds]

theorem Passes.rd {row : OpRow} {c : Command} (h : Passes row c) : MarkHolds (row.rd, c.rd.toNat) :=
  h.marks _ (.head _)

theorem Passes.ra {row : OpRow} {c : Command} (h : Passes row c) : MarkHolds (row.ra, c.ra.toNat) :=
  h.marks _ (.tail _ (.head _))

theorem Passes.rb {row : OpRow} {c : Command} (h : Passes row c) : MarkHolds (row.rb, c.rb.toNat) :=
  h.marks _ (.tail _ (.tail _ (.head _)))

theorem Passes.rc {row : OpRow} {c : Command} (h : Passes row c) : MarkHolds (row.rc, c.rc.toNat) :=
  h.marks _ (.tail _ (.tail _ (.tail _ (.head _))))

theorem Passes.imm {row : OpRow} {c : Command} (h : Passes row c) : MarkHolds (row.imm, c.imm.toNat) :=
  h.marks _ (.tail _ (.tail _ (.tail _ (.tail _ (.head _)))))

/-! ### The branches of the decoder -/

/-- What the answer `r` of a branch of the decoder owes to the fields `c`, read by `row`: a term it gives is a command with
these fields, and it gives one if they pass the row's tests. -/
structure Agrees (row : OpRow) (c : Command) (r : Except Illegal Instr) : Prop where
  encodes : ∀ i, r = .ok i → i.wf = true ∧ commandOf i = c
  accepts : Passes row c → ∃ i, r = .ok i

section Branches
variable {row : OpRow} {c : Command}

theorem agrees_ok {i : Instr} (wf : i.wf = true) (fields : commandOf i = c) : Agrees row c (.ok i) where
  encodes _ e := Except.ok.inj e ▸ ⟨wf, fields⟩
  accepts _ := ⟨i, rfl⟩

/-- A check of the decoder that passes exactly on the encodings `bits a` of its answers `a`, as the row's mark demands. -/
theorem agrees_bind {α : Type} {k : Nat} {v : BitVec k} {x : Except Illegal α} {bits : α → BitVec k}
    {f : α → Except Illegal Instr} (sound : ∀ a, x = .ok a → v = bits a) (total : Passes row c → ∃ a, x = .ok a)
    (h : ∀ a, bits a = v → Agrees row c (f a)) : Agrees row c (x >>= f) where
  encodes i e := by
    obtain ⟨a, ea, ei⟩ := bind_ok e
    exact (h a (sound a ea).symm).encodes i ei
  accepts pass := by
    obtain ⟨a, ea⟩ := total pass
    rw [ea]
    exact (h a (sound a ea).symm).accepts pass

theorem agrees_zero {k : Nat} {v : BitVec k} {f : Unit → Except Illegal Instr}
    (mark : Passes row c → MarkHolds (.zero, v.toNat)) (h : 0#k = v → Agrees row c (f ())) :
    Agrees row c (zeroField v >>= f) :=
  agrees_bind (bits := fun _ => 0#k) (fun _ => zeroField_ok)
    (fun pass => ⟨(), if_pos (BitVec.eq_of_toNat_eq ((markHolds_zero_iff _).1 (mark pass)))⟩) fun _ => h

theorem agrees_point {v : BitVec 4} {f : PReg → Except Illegal Instr} (mark : Passes row c → MarkHolds (.p, v.toNat))
    (h : ∀ k, pBits k = v → Agrees row c (f k)) : Agrees row c (pField v >>= f) :=
  agrees_bind (fun _ => pField_ok) (fun pass => ⟨_, dif_pos ((markHolds_point_iff _).1 (mark pass))⟩) h

/-- A select passes with the values 0 and 1. -/
theorem eq_zero_or_one {v : Byte} (h : MarkHolds (.select, v.toNat)) : v = 0#8 ∨ v = 1#8 := by
  have lt := (markHolds_select_iff _).1 h
  bv_omega

theorem agrees_modulus {v : Byte} {f : Modulus → Except Illegal Instr} (mark : Passes row c → MarkHolds (.select, v.toNat))
    (h : ∀ m, modulusBits m = v → Agrees row c (f m)) : Agrees row c (modulusField v >>= f) := by
  refine agrees_bind (fun _ => modulusField_ok) (fun pass => ?_) h
  obtain rfl | rfl := eq_zero_or_one (mark pass)
  · exact ⟨.p, rfl⟩
  · exact ⟨.n, rfl⟩

theorem agrees_tag {v : Byte} {f : Tag → Except Illegal Instr} (mark : Passes row c → MarkHolds (.select, v.toNat))
    (h : ∀ t, tagBits t = v → Agrees row c (f t)) : Agrees row c (tagField v >>= f) := by
  refine agrees_bind (fun _ => tagField_ok) (fun pass => ?_) h
  obtain rfl | rfl := eq_zero_or_one (mark pass)
  · exact ⟨.derive, rfl⟩
  · exact ⟨.challenge, rfl⟩

/-- A relation between fields that the decoder checks last. -/
theorem agrees_ite {b : Bool} {x : Except Illegal Instr} {e : Illegal} (total : Passes row c → b = true)
    (h : b = true → Agrees row c x) : Agrees row c (if b then x else throw e) := by
  cases b with
  | true => exact h rfl
  | false =>
    exact { encodes := fun _ ok => by cases ok
            accepts := fun pass => absurd (total pass) Bool.false_ne_true }

theorem command_ext {d : Command} (op : d.op.toNat = c.op.toNat) (rd : d.rd = c.rd) (ra : d.ra = c.ra) (rb : d.rb = c.rb)
    (rc : d.rc = c.rc) (imm : d.imm = c.imm) : d = c := by
  cases c
  cases d
  exact (Command.mk.injEq ..).mpr ⟨BitVec.eq_of_toNat_eq op, rd, ra, rb, rc, imm⟩

end Branches

theorem rowOf_eq {op : Byte} {n : Nat} (h : op.toNat = n) : rowOf op = rowOf (BitVec.ofNat 8 n) := by
  rw [← h, BitVec.ofNat_toNat, BitVec.setWidth_eq]

/-- R96 case 1. -/
theorem decodeCommand_unassigned {c : Command} (h : rowOf c.op = none) : decodeCommand c = .error .unassignedOpcode := by
  unfold decodeCommand
  split
  case h_28 => rfl
  all_goals next op => cases (rowOf_eq op).symm.trans h

/-- R95: the assigned opcodes. -/
theorem assigned_opcodes : ∀ row ∈ opTable, row.op.toNat ≤ 3 ∨ (16 ≤ row.op.toNat ∧ row.op.toNat ≤ 23) ∨
    (32 ≤ row.op.toNat ∧ row.op.toNat ≤ 42) ∨ row.op.toNat = 48 ∨ (64 ≤ row.op.toNat ∧ row.op.toNat ≤ 66) := by decide

/-- The row that belongs to the opcode of a branch. -/
theorem agrees_row {n : Nat} {row row' : OpRow} {c : Command} {r : Except Illegal Instr} (found : rowOf c.op = some row)
    (op : c.op.toNat = n) (at_op : rowOf (BitVec.ofNat 8 n) = some row') (h : Agrees row' c r) : Agrees row c r := by
  obtain rfl := Option.some.inj (found.symm.trans ((rowOf_eq op).trans at_op))
  exact h

/-- R95, R96: each of the 27 branches, row by row of the table in its order, checks the fields its row marks and reads the
others. -/
theorem decodeCommand_agrees {row : OpRow} {c : Command} (found : rowOf c.op = some row) :
    Agrees row c (decodeCommand c) := by
  unfold decodeCommand
  split
  -- no assigned opcode
  case h_28 =>
    obtain ⟨member, op⟩ := of_rowOf found
    have assigned := assigned_opcodes row member
    rw [op] at assigned
    simp only [imp_false] at *
    omega
  -- NOP
  case h_1 op =>
    exact agrees_row found op rfl <| agrees_zero (·.rd) fun rd => agrees_zero (·.ra) fun ra => agrees_zero (·.rb) fun rb =>
      agrees_zero (·.rc) fun rc => agrees_zero (·.imm) fun imm => agrees_ok rfl (command_ext op.symm rd ra rb rc imm)
  -- FMOV, FINV, FSQRT, KEYGEN
  case h_2 op | h_9 op | h_11 op | h_25 op =>
    exact agrees_row found op rfl <| agrees_zero (·.rb) fun rb => agrees_zero (·.rc) fun rc => agrees_zero (·.imm) fun imm =>
      agrees_ok rfl (command_ext op.symm (fBits_fField _) (fBits_fField _) rb rc imm)
  -- FSEL, FEXP
  case h_3 op | h_10 op =>
    exact agrees_row found op rfl <| agrees_zero (·.rc) fun rc => agrees_zero (·.imm) fun imm =>
      agrees_ok rfl (command_ext op.symm (fBits_fField _) (fBits_fField _) (fBits_fField _) rc imm)
  -- FEQ
  case h_4 op =>
    exact agrees_row found op rfl <| agrees_zero (·.rd) fun rd => agrees_zero (·.rc) fun rc => agrees_zero (·.imm) fun imm =>
      agrees_ok rfl (command_ext op.symm rd (fBits_fField _) (fBits_fField _) rc imm)
  -- FADD, FSUB, FMUL
  case h_5 op | h_6 op | h_7 op =>
    exact agrees_row found op rfl <| agrees_zero (·.rc) fun rc => agrees_modulus (·.imm) fun _ imm =>
      agrees_ok rfl (command_ext op.symm (fBits_fField _) (fBits_fField _) (fBits_fField _) rc imm)
  -- FRED
  case h_8 op =>
    exact agrees_row found op rfl <| agrees_zero (·.rb) fun rb => agrees_zero (·.rc) fun rc =>
      agrees_modulus (·.imm) fun _ imm => agrees_ok rfl (command_ext op.symm (fBits_fField _) (fBits_fField _) rb rc imm)
  -- FISQ
  case h_12 op =>
    exact agrees_row found op rfl <| agrees_zero (·.rd) fun rd => agrees_zero (·.rb) fun rb => agrees_zero (·.rc) fun rc =>
      agrees_zero (·.imm) fun imm => agrees_ok rfl (command_ext op.symm rd (fBits_fField _) rb rc imm)
  -- PINF, PLDG
  case h_13 op | h_14 op =>
    exact agrees_row found op rfl <| agrees_zero (·.ra) fun ra => agrees_zero (·.rb) fun rb => agrees_zero (·.rc) fun rc =>
      agrees_zero (·.imm) fun imm => agrees_point (·.rd) fun _ rd => agrees_ok rfl (command_ext op.symm rd ra rb rc imm)
  -- PMOV, PDBL
  case h_15 op | h_22 op =>
    exact agrees_row found op rfl <| agrees_zero (·.rb) fun rb => agrees_zero (·.rc) fun rc => agrees_zero (·.imm) fun imm =>
      agrees_point (·.rd) fun _ rd => agrees_point (·.ra) fun _ ra => agrees_ok rfl (command_ext op.symm rd ra rb rc imm)
  -- PSET
  case h_16 op =>
    exact agrees_row found op rfl <| agrees_zero (·.rc) fun rc => agrees_zero (·.imm) fun imm =>
      agrees_point (·.rd) fun _ rd => agrees_ok rfl (command_ext op.symm rd (fBits_fField _) (fBits_fField _) rc imm)
  -- PGETX, PGETY
  case h_17 op | h_18 op =>
    exact agrees_row found op rfl <| agrees_zero (·.rb) fun rb => agrees_zero (·.rc) fun rc => agrees_zero (·.imm) fun imm =>
      agrees_point (·.ra) fun _ ra => agrees_ok rfl (command_ext op.symm (fBits_fField _) ra rb rc imm)
  -- PISINF
  case h_19 op =>
    exact agrees_row found op rfl <| agrees_zero (·.rd) fun rd => agrees_zero (·.rb) fun rb => agrees_zero (·.rc) fun rc =>
      agrees_zero (·.imm) fun imm => agrees_point (·.ra) fun _ ra => agrees_ok rfl (command_ext op.symm rd ra rb rc imm)
  -- PLIFT
  case h_20 op =>
    exact agrees_row found op rfl <| agrees_zero (·.rb) fun rb => agrees_zero (·.rc) fun rc => agrees_zero (·.imm) fun imm =>
      agrees_point (·.rd) fun _ rd => agrees_ok rfl (command_ext op.symm rd (fBits_fField _) rb rc imm)
  -- PADD
  case h_21 op =>
    exact agrees_row found op rfl <| agrees_zero (·.rc) fun rc => agrees_zero (·.imm) fun imm =>
      agrees_point (·.rd) fun _ rd => agrees_point (·.ra) fun _ ra => agrees_point (·.rb) fun _ rb =>
        agrees_ok rfl (command_ext op.symm rd ra rb rc imm)
  -- PMUL
  case h_23 op =>
    exact agrees_row found op rfl <| agrees_zero (·.rc) fun rc => agrees_zero (·.imm) fun imm =>
      agrees_point (·.rd) fun _ rd => agrees_point (·.ra) fun _ ra =>
        agrees_ok rfl (command_ext op.symm rd ra (fBits_fField _) rc imm)
  -- THASH
  case h_24 op =>
    refine agrees_row found op rfl <| agrees_zero (·.rb) fun rb => agrees_tag (·.imm) fun _ imm =>
      agrees_ite (fun pass => ?_) fun inRange =>
        agrees_ok inRange (command_ext op.symm (fBits_fField _) (fBits_fField _) rb (fBits_fField _) imm)
    exact decide_eq_true (pass.hash (BitVec.eq_of_toNat_eq op))
  -- SIGN
  case h_26 op =>
    refine agrees_row found op rfl <| agrees_zero (·.imm) fun imm => agrees_ite (fun pass => ?_) fun differ =>
      agrees_ok differ (command_ext op.symm (fBits_fField _) (fBits_fField _) (fBits_fField _) (fBits_fField _) imm)
    exact decide_eq_true fun same =>
      pass.sign (BitVec.eq_of_toNat_eq op) (by rw [← fBits_fField c.rd, ← fBits_fField c.rc, same])
  -- VERIFY
  case h_27 op =>
    exact agrees_row found op rfl <| agrees_zero (·.imm) fun imm =>
      agrees_ok rfl (command_ext op.symm (fBits_fField _) (fBits_fField _) (fBits_fField _) (fBits_fField _) imm)

/-- Settles O3: the branch that answered has checked every field it does not put into the term. -/
theorem encodeInvertsDecode : Obligations.EncodeInvertsDecode := fun w i word => by
  cases found : rowOf (fieldsOf w).op with
  | none => cases (decodeCommand_unassigned found).symm.trans word
  | some row =>
    obtain ⟨wf, fields⟩ := (decodeCommand_agrees found).encodes i word
    exact ⟨wf, by rw [encode, fields, wordOf_fieldsOf]⟩

/-- Settles O4: a legal word passes every check of its branch, and a word that decodes encodes a well-formed command. -/
theorem legalWordsAreTheDecodedOnes : Obligations.LegalWordsAreTheDecodedOnes := by
  refine fun w => ⟨fun ok => ?_, fun ⟨i, word⟩ => ?_⟩
  · cases found : rowOf (fieldsOf w).op with
    | none => cases (legal_eq_false found).symm.trans ok
    | some row => exact (decodeCommand_agrees found).accepts ((legal_iff found).1 ok)
  · obtain ⟨wf, rfl⟩ := encodeInvertsDecode w i word
    exact legal_encode wf

end Sys2Proof.Scope
end

section
/-! SUPPORT. How a command ends (30_encoding.md R91, R96, 60_exceptions.md R261, R262): the causes each rule can raise, and
the words that fail with ILLEGAL_CMD. -/

namespace Sys2Proof.Scope

open Sys2Proof.Machine

/-! ### The causes a rule can raise -/

/-- An answer fails with no other cause than these. -/
def Raises {α : Type} (es : List CmdError) (x : Except CmdError α) : Prop := ∀ e, x = .error e → e ∈ es

section Causes
variable {α β : Type} {es : List CmdError}

theorem raises_ok (a : α) : Raises es (.ok a) := fun _ h => nomatch h

theorem raises_error {e : CmdError} (h : e ∈ es) : Raises es (.error e : Except CmdError α) := fun _ h' =>
  Except.error.inj h' ▸ h

theorem raises_bind {x : Except CmdError α} {f : α → Except CmdError β} (hx : Raises es x) (hf : ∀ a, Raises es (f a)) :
    Raises es (x >>= f) := fun e h => by
  obtain h | ⟨a, -, h⟩ := bind_error h
  · exact hx e h
  · exact hf a e h

theorem raises_ite {c : Prop} [Decidable c] {x y : Except CmdError α} (hx : Raises es x) (hy : Raises es y) :
    Raises es (if c then x else y) := by
  split
  · exact hx
  · exact hy

theorem operandBelow_raises (h : .operandRange ∈ es) (m : Modulus) (v : U256) : Raises es (operandBelow m v) :=
  raises_ite (raises_error h) (raises_ok _)

theorem finv_raises (h : .invZero ∈ es) (a : Nat) : Raises es (finv a) := raises_ite (raises_error h) (raises_ok _)

theorem fsqrt_raises (h : .noSqrt ∈ es) (c : Nat) : Raises es (fsqrt c) := raises_ite (raises_ok _) (raises_error h)

theorem liftX_raises (h : .pointDecode ∈ es) (x : U256) : Raises es (liftX x) :=
  raises_ite (raises_error h) (raises_ite (raises_ok _) (raises_error h))

theorem coordinates_raises (h : .infinity ∈ es) (q : Point) : Raises es (coordinates q) := by
  cases q with
  | inf => exact raises_error h
  | aff x y => exact raises_ok _

theorem pointAdd_raises (h : .invZero ∈ es) (q r : Point) : Raises es (pointAdd q r) := by
  cases q with
  | inf => exact raises_ok _
  | aff x1 y1 =>
    cases r with
    | inf => exact raises_ok _
    | aff x2 y2 =>
      have slope : Raises es (additionSlope x1 y1 x2 y2) :=
        raises_ite (raises_bind (finv_raises h _) fun _ => raises_ok _) (raises_bind (finv_raises h _) fun _ => raises_ok _)
      exact raises_ite (raises_ok _) (raises_bind slope fun _ => raises_ok _)

theorem pointMulFrom_raises (h : .invZero ∈ es) (q : Point) (k : U256) (i : Nat) (r : Point) :
    Raises es (pointMulFrom q k i r) := by
  induction i generalizing r with
  | zero => exact raises_ok _
  | succ i ih =>
    exact raises_bind (pointAdd_raises h r r) fun d =>
      raises_bind (raises_ite (pointAdd_raises h d q) (raises_ok _)) fun a => ih a

theorem pointMul_raises (h : .invZero ∈ es) (q : Point) (k : U256) : Raises es (pointMul q k) :=
  pointMulFrom_raises h q k _ _

/-- The first steps of `key_gen` and `sign` (R220, R230): the coordinates of a multiple of G. -/
theorem pointMul_coordinates_raises (inv : .invZero ∈ es) (inf : .infinity ∈ es) (k : U256)
    {f : U256 × U256 → Except CmdError α} (hf : ∀ xy, Raises es (f xy)) :
    Raises es (pointMul basePoint k >>= fun q => coordinates q >>= f) :=
  raises_bind (pointMul_raises inv _ k) fun q => raises_bind (coordinates_raises inf q) hf

theorem checkSecret_raises (h : .invalidSecretKey ∈ es) (d : U256) : Raises es (checkSecret d) :=
  raises_ite (raises_error h) (raises_ok _)

theorem checkNonce_raises (h : .zeroNonce ∈ es) (k : Nat) : Raises es (checkNonce k) :=
  raises_ite (raises_error h) (raises_ok _)

theorem keyGen_raises (d : U256) : Raises [.invalidSecretKey, .infinity, .invZero] (keyGen d) :=
  raises_bind (checkSecret_raises (by decide) d) fun _ =>
    pointMul_coordinates_raises (by decide) (by decide) d fun _ => raises_ok _

theorem sign_raises (m d : U256) : Raises [.invalidSecretKey, .zeroNonce, .infinity, .invZero] (sign m d) :=
  raises_bind (checkSecret_raises (by decide) d) fun _ =>
    pointMul_coordinates_raises (by decide) (by decide) d fun _ => raises_bind (checkNonce_raises (by decide) _) fun _ =>
      pointMul_coordinates_raises (by decide) (by decide) _ fun _ => raises_ok _

end Causes

/-! ### The end of a command -/

/-- The rule of a command begun in `s`: it fails with one of the causes `es`, or answers a state with ERR as it was. -/
structure EndsWithin (es : List CmdError) (s : State) (r : Except CmdError State) : Prop where
  raises : Raises es r
  keepsErr : ∀ u, r = .ok u → u.err = s.err

section Ends
variable {es : List CmdError} {s : State}

theorem endsWithin_ok {u : State} (h : u.err = s.err) : EndsWithin es s (.ok u) where
  raises := raises_ok u
  keepsErr _ e := Except.ok.inj e ▸ h

theorem endsWithin_error {e : CmdError} (h : e ∈ es) : EndsWithin es s (.error e) where
  raises := raises_error h
  keepsErr _ h := nomatch h

theorem endsWithin_bind {α : Type} {x : Except CmdError α} {f : α → Except CmdError State} (hx : Raises es x)
    (hf : ∀ a, EndsWithin es s (f a)) : EndsWithin es s (x >>= f) where
  raises := raises_bind hx fun a => (hf a).raises
  keepsErr u h := by
    obtain ⟨a, -, h⟩ := bind_ok h
    exact (hf a).keepsErr u h

theorem endsWithin_storePoint (rd : PReg) {r : Except CmdError Point} (hr : Raises es r) :
    EndsWithin es s (storePoint rd r s) :=
  endsWithin_bind hr fun _ => endsWithin_ok rfl

theorem endsWithin_binaryField (op : Nat → Nat → Nat → Nat) (m : Modulus) (rd ra rb : FReg) :
    EndsWithin [.operandRange] s (binaryField op m rd ra rb s) :=
  endsWithin_bind (operandBelow_raises (by decide) m _) fun _ =>
    endsWithin_bind (operandBelow_raises (by decide) m _) fun _ => endsWithin_ok rfl

theorem finish_endsWithin {t : State} {r : Except CmdError State} (h : finish s r = .next t) (hr : EndsWithin es s r) :
    (∃ e ∈ es, t = s.takeError e) ∨ t.err = s.err := by
  obtain ⟨e, he, rfl⟩ | ⟨u, hu, rfl⟩ := finish_cases h
  · exact .inl ⟨e, hr.raises e he, rfl⟩
  · exact .inr (hr.keepsErr u hu)

end Ends

/-- R261, R262: a well-formed command takes an error of the column "raised by", or leaves ERR as it was. -/
theorem exec_endsWithin {i : Instr} {s t : State} (wf : i.wf = true) (h : exec i s = .next t) :
    (∃ e ∈ raises i, t = s.takeError e) ∨ t.err = s.err := by
  cases i with
  | nop | fmov | fsel | feq | fred | pinf | pldg | pmov | pisinf | verify =>
    exact finish_endsWithin (r := .ok _) h (endsWithin_ok rfl)
  | fadd m rd ra rb | fsub m rd ra rb | fmul m rd ra rb =>
    exact finish_endsWithin h (endsWithin_binaryField _ m rd ra rb)
  | fexp | fisq =>
    exact finish_endsWithin h (endsWithin_bind (operandBelow_raises (.head _) .p _) fun _ => endsWithin_ok rfl)
  | finv =>
    exact finish_endsWithin h (endsWithin_bind (operandBelow_raises (.head _) .p _) fun a =>
      endsWithin_bind (finv_raises (.tail _ (.head _)) a) fun _ => endsWithin_ok rfl)
  | fsqrt =>
    exact finish_endsWithin h (endsWithin_bind (operandBelow_raises (.head _) .p _) fun c =>
      endsWithin_bind (fsqrt_raises (.tail _ (.head _)) c) fun _ => endsWithin_ok rfl)
  | pset =>
    refine finish_endsWithin h (endsWithin_bind (operandBelow_raises (.head _) .p _) fun _ =>
      endsWithin_bind (operandBelow_raises (.head _) .p _) fun _ => ?_)
    split
    · exact endsWithin_ok rfl
    · exact endsWithin_error (.tail _ (.head _))
  | pgetx | pgety =>
    exact finish_endsWithin h (endsWithin_bind (coordinates_raises (.head _) _) fun _ => endsWithin_ok rfl)
  | plift rd => exact finish_endsWithin h (endsWithin_storePoint rd (liftX_raises (.head _) _))
  | padd rd | pdbl rd => exact finish_endsWithin h (endsWithin_storePoint rd (pointAdd_raises (.head _) _ _))
  | pmul rd => exact finish_endsWithin h (endsWithin_storePoint rd (pointMul_raises (.head _) _ _))
  | thash tag rd ra cnt => exact finish_endsWithin h ((if_pos wf).symm ▸ endsWithin_ok rfl)
  | keygen => exact finish_endsWithin h (endsWithin_bind (keyGen_raises _) fun _ => endsWithin_ok rfl)
  | sign rd rc ra rb =>
    exact finish_endsWithin h ((if_pos wf).symm ▸ endsWithin_bind (sign_raises _ _) fun _ => endsWithin_ok rfl)

/-! ### Illegal words -/

/-- R91: the step from the state `withFetchWord` makes is the completion step of the word. -/
theorem step_withFetchWord (s : State) (w : U32) :
    step (s.withFetchWord 32 w.toNat) = completion { s with cmdreg := w, busy := true, done := false } := by
  rw [State.withFetchWord_eq]
  exact (step_engine (s := s.inFlight w) rfl).trans (engineTurn_busy rfl)

/-- Settles O7: the completion step runs the command that CMDREG decodes to. -/
theorem stepRunsTheDecodedCommand : Obligations.StepRunsTheDecodedCommand := by
  refine ⟨fun s i busy word agenda => ?_, fun s i rest busy word agenda => step_engine_runs busy word agenda,
    fun s i w word => ?_⟩
  · rw [step_nil agenda, engineTurn_busy busy, completion_ok word]
  · rw [step_withFetchWord]
    exact completion_ok word

/-- R261: the code 0x01 is that of ILLEGAL_CMD alone, which no command of the column "raised by" records. -/
theorem code_ne_one_of_raises {i : Instr} {e : CmdError} (h : e ∈ raises i) : e.code ≠ 0x01#8 := by
  cases e with
  | illegalCmd => cases i <;> simp [raises] at h
  | _ => decide

/-- Settles O8: an illegal word does not decode, and a well-formed command never records ILLEGAL_CMD. -/
theorem illegalWordsFailWithIllegalCmd : Obligations.IllegalWordsFailWithIllegalCmd := by
  intro s w ok
  rw [step_withFetchWord]
  constructor
  · intro illegal
    cases word : decode w with
    | error e => exact completion_error word
    | ok i => cases illegal.symm.trans ((legalWordsAreTheDecodedOnes w).2 ⟨i, word⟩)
  · intro fails
    refine Bool.eq_false_iff.2 fun isLegal => ?_
    obtain ⟨i, word⟩ := (legalWordsAreTheDecodedOnes w).1 isLegal
    obtain ⟨wf, -⟩ := encodeInvertsDecode w i word
    have runs := (completion_ok (s := { s with cmdreg := w, busy := true, done := false }) word).symm.trans fails
    obtain ⟨e, raised, taken⟩ | keeps := exec_endsWithin wf runs
    · exact code_ne_one_of_raises raised (congrArg State.errcode taken).symm
    · cases keeps.trans ok

end Sys2Proof.Scope
end

section
/-! SUPPORT. What a command's effect depends on (30_encoding.md R93, 10_state.md R45): two runs of one command from states
that hold the same in its sources. -/

namespace Sys2Proof.Scope

open Sys2Proof.Machine

/-- Two completions of a command with no error standing hold the same in its destinations. -/
structure SameWrites (i : Instr) (u u' : State) : Prop where
  err : u.err = false
  err' : u'.err = false
  f : ∀ r ∈ writesF i, u'.readF r = u.readF r
  p : ∀ k ∈ writesP i, u'.readP k = u.readP k
  t : writesT i = true → u'.t = u.t

/-- What the rule of a command answered in two runs: the same error, or the same in the destinations. -/
inductive SameEffect (i : Instr) : Except CmdError State → Except CmdError State → Prop where
  | error (e : CmdError) : SameEffect i (.error e) (.error e)
  | ok {u u' : State} (writes : SameWrites i u u') : SameEffect i (.ok u) (.ok u')

section TwoRuns
variable {i : Instr} {s s' : State}

theorem sameEffect_bind {α : Type} {x x' : Except CmdError α} {f g : α → Except CmdError State} (hx : x' = x)
    (h : ∀ a, SameEffect i (f a) (g a)) : SameEffect i (x >>= f) (x' >>= g) := by
  subst hx
  cases x' with
  | error e => exact .error e
  | ok a => exact h a

theorem sameEffect_ite {c : Prop} [Decidable c] {e : CmdError} {x x' : Except CmdError State}
    (h : c → SameEffect i x x') : SameEffect i (if c then x else .error e) (if c then x' else .error e) := by
  split
  · next hc => exact h hc
  · exact .error e

theorem finish_sameEffect {t t' : State} {r r' : Except CmdError State} (h : finish s r = .next t)
    (h' : finish s' r' = .next t') (same : SameEffect i r r') :
    t'.err = t.err ∧ (t.err = true → t'.errcode = t.errcode) ∧
      (t.err = false → (∀ r ∈ writesF i, t'.readF r = t.readF r) ∧ (∀ k ∈ writesP i, t'.readP k = t.readP k) ∧
        (writesT i = true → t'.t = t.t)) := by
  cases same with
  | error e =>
    obtain rfl := Host.Outcome.next.inj h
    obtain rfl := Host.Outcome.next.inj h'
    exact ⟨rfl, fun _ => rfl, fun ok => by cases ok⟩
  | ok writes =>
    obtain rfl := Host.Outcome.next.inj h
    obtain rfl := Host.Outcome.next.inj h'
    exact ⟨writes.err'.trans writes.err.symm, fun bad => absurd (bad.symm.trans writes.err) Bool.noConfusion,
      fun _ => ⟨writes.f, writes.p, writes.t⟩⟩

/-! ### The writes of the rules -/

variable (ok : s.err = false) (ok' : s'.err = false)
include ok ok'

theorem sameEffect_writeF {rd : FReg} {v v' : U256} (hF : writesF i = [rd]) (hP : writesP i = []) (hT : writesT i = false)
    (hv : v' = v) : SameEffect i (.ok (s.writeF rd v)) (.ok (s'.writeF rd v')) :=
  .ok {
    err := ok
    err' := ok'
    f := by simp [hF, hv]
    p := by simp [hP]
    t := by simp [hT] }

theorem sameEffect_writeP {rd : PReg} {q q' : Point} (hF : writesF i = []) (hP : writesP i = [rd]) (hT : writesT i = false)
    (hq : q' = q) : SameEffect i (.ok (s.writeP rd q)) (.ok (s'.writeP rd q')) :=
  .ok {
    err := ok
    err' := ok'
    f := by simp [hF]
    p := by simp [hP, hq]
    t := by simp [hT] }

theorem sameEffect_setT {b b' : Bool} (hF : writesF i = []) (hP : writesP i = []) (hb : b' = b) :
    SameEffect i (.ok (s.setT b)) (.ok (s'.setT b')) :=
  .ok {
    err := ok
    err' := ok'
    f := by simp [hF]
    p := by simp [hP]
    t := by simp [hb] }

/-- R231: the two destinations of SIGN. -/
theorem sameEffect_sign {rd rc ra rb : FReg} (v w : U256) :
    SameEffect (.sign rd rc ra rb) (.ok ((s.writeF rd v).writeF rc w)) (.ok ((s'.writeF rd v).writeF rc w)) :=
  .ok {
    err := ok
    err' := ok'
    f := by simp [writesF, State.readF_writeF]
    p := by simp [writesP]
    t := by simp [writesT] }

theorem sameEffect_binaryField {op : Nat → Nat → Nat → Nat} {m : Modulus} {rd ra rb : FReg} (hF : writesF i = [rd])
    (hP : writesP i = []) (hT : writesT i = false) (ha : s'.readF ra = s.readF ra) (hb : s'.readF rb = s.readF rb) :
    SameEffect i (binaryField op m rd ra rb s) (binaryField op m rd ra rb s') :=
  sameEffect_bind (congrArg _ ha) fun _ => sameEffect_bind (congrArg _ hb) fun _ =>
    sameEffect_writeF ok ok' hF hP hT rfl

theorem sameEffect_storePoint {rd : PReg} {r r' : Except CmdError Point} (hF : writesF i = []) (hP : writesP i = [rd])
    (hT : writesT i = false) (hr : r' = r) : SameEffect i (storePoint rd r s) (storePoint rd r' s') :=
  sameEffect_bind hr fun _ => sameEffect_writeP ok ok' hF hP hT rfl

end TwoRuns

/-! ### The sources of a command -/

/-- R93: two states that hold the same in the sources of a command. -/
structure SameSources (i : Instr) (s s' : State) : Prop where
  f : ∀ r ∈ readsF i, s'.readF r = s.readF r
  p : ∀ k ∈ readsP i, s'.readP k = s.readP k
  t : readsT i = true → s'.t = s.t

/-- R198: the registers THASH names as sources are those it hashes. -/
theorem messageRegs_congr {s s' : State} {tag : Tag} {rd ra : FReg} {cnt : Fin 16} (inRange : hashInRange ra cnt = true)
    (same : SameSources (.thash tag rd ra cnt) s s') : messageRegs s' ra cnt = messageRegs s ra cnt := by
  have bound : ra.val + cnt.val ≤ 16 := of_decide_eq_true inRange
  refine List.map_congr_left fun k hk => same.f _ ?_
  have hk : k < cnt.val := List.mem_range.1 hk
  have val : (Fin.ofNat 16 (ra.val + k)).val = ra.val + k := Nat.mod_eq_of_lt (by omega)
  simp only [readsF, List.mem_filter, List.mem_finRange, val, decide_eq_true_eq, true_and]
  omega

/-- R93: every rule computes what it writes, or its error, from the sources alone. -/
theorem exec_sameEffect {i : Instr} {s s' : State} (ok : s.err = false) (ok' : s'.err = false) (same : SameSources i s s') :
    ∃ r r', exec i s = finish s r ∧ exec i s' = finish s' r' ∧ SameEffect i r r' := by
  cases i with
  | nop =>
    refine ⟨_, _, rfl, rfl, .ok ⟨ok, ok', ?_, ?_, ?_⟩⟩ <;> simp [writesF, writesP, writesT]
  | fmov rd ra =>
    exact ⟨_, _, rfl, rfl, sameEffect_writeF ok ok' rfl rfl rfl (same.f ra (.head _))⟩
  | fred m rd ra =>
    exact ⟨_, _, rfl, rfl, sameEffect_writeF ok ok' rfl rfl rfl (by rw [same.f ra (.head _)])⟩
  | fsel rd ra rb =>
    exact ⟨_, _, rfl, rfl, sameEffect_writeF ok ok' rfl rfl rfl
      (by rw [same.t rfl, same.f ra (.head _), same.f rb (.tail _ (.head _))])⟩
  | feq ra rb =>
    exact ⟨_, _, rfl, rfl, sameEffect_setT ok ok' rfl rfl (by rw [same.f ra (.head _), same.f rb (.tail _ (.head _))])⟩
  | fadd m rd ra rb | fsub m rd ra rb | fmul m rd ra rb =>
    exact ⟨_, _, rfl, rfl, sameEffect_binaryField ok ok' rfl rfl rfl (same.f ra (.head _)) (same.f rb (.tail _ (.head _)))⟩
  | finv rd ra | fsqrt rd ra =>
    exact ⟨_, _, rfl, rfl, sameEffect_bind (by rw [same.f ra (.head _)]) fun _ => sameEffect_bind rfl fun _ =>
      sameEffect_writeF ok ok' rfl rfl rfl rfl⟩
  | fexp rd ra rb =>
    exact ⟨_, _, rfl, rfl, sameEffect_bind (by rw [same.f ra (.head _)]) fun _ =>
      sameEffect_writeF ok ok' rfl rfl rfl (by rw [same.f rb (.tail _ (.head _))])⟩
  | fisq ra =>
    exact ⟨_, _, rfl, rfl, sameEffect_bind (by rw [same.f ra (.head _)]) fun _ => sameEffect_setT ok ok' rfl rfl rfl⟩
  | pinf rd | pldg rd => exact ⟨_, _, rfl, rfl, sameEffect_writeP ok ok' rfl rfl rfl rfl⟩
  | pmov rd ra => exact ⟨_, _, rfl, rfl, sameEffect_writeP ok ok' rfl rfl rfl (same.p ra (.head _))⟩
  | pset rd ra rb =>
    have ha := same.f ra (.head _)
    have hb := same.f rb (.tail _ (.head _))
    exact ⟨_, _, rfl, rfl, sameEffect_bind (by rw [ha]) fun _ => sameEffect_bind (by rw [hb]) fun _ =>
      sameEffect_ite fun _ => sameEffect_writeP ok ok' rfl rfl rfl (by rw [ha, hb])⟩
  | pgetx rd ra | pgety rd ra =>
    exact ⟨_, _, rfl, rfl, sameEffect_bind (by rw [same.p ra (.head _)]) fun _ => sameEffect_writeF ok ok' rfl rfl rfl rfl⟩
  | pisinf ra => exact ⟨_, _, rfl, rfl, sameEffect_setT ok ok' rfl rfl (by rw [same.p ra (.head _)])⟩
  | plift rd ra => exact ⟨_, _, rfl, rfl, sameEffect_storePoint ok ok' rfl rfl rfl (by rw [same.f ra (.head _)])⟩
  | padd rd ra rb =>
    exact ⟨_, _, rfl, rfl, sameEffect_storePoint ok ok' rfl rfl rfl
      (by rw [same.p ra (.head _), same.p rb (.tail _ (.head _))])⟩
  | pdbl rd ra => exact ⟨_, _, rfl, rfl, sameEffect_storePoint ok ok' rfl rfl rfl (by rw [same.p ra (.head _)])⟩
  | pmul rd ra rb =>
    exact ⟨_, _, rfl, rfl, sameEffect_storePoint ok ok' rfl rfl rfl (by rw [same.p ra (.head _), same.f rb (.head _)])⟩
  | thash tag rd ra cnt =>
    exact ⟨_, _, rfl, rfl, sameEffect_ite fun inRange =>
      sameEffect_writeF ok ok' rfl rfl rfl (by rw [messageRegs_congr inRange same])⟩
  | keygen rd ra =>
    exact ⟨_, _, rfl, rfl, sameEffect_bind (by rw [same.f ra (.head _)]) fun _ => sameEffect_writeF ok ok' rfl rfl rfl rfl⟩
  | sign rd rc ra rb =>
    exact ⟨_, _, rfl, rfl, sameEffect_ite fun _ =>
      sameEffect_bind (by rw [same.f ra (.head _), same.f rb (.tail _ (.head _))]) fun sig =>
        sameEffect_sign ok ok' sig.1 sig.2⟩
  | verify ra rb rc rd =>
    exact ⟨_, _, rfl, rfl, sameEffect_setT ok ok' rfl rfl (by
      rw [same.f ra (.head _), same.f rb (.tail _ (.head _)), same.f rc (.tail _ (.tail _ (.head _))),
        same.f rd (.tail _ (.tail _ (.tail _ (.head _))))])⟩

/-- Settles O12: two ends of rules with the same effect. -/
theorem sourcesDetermineTheEffect : Obligations.SourcesDetermineTheEffect := by
  intro i s s' t t' ok ok' sameF sameP sameT h h'
  obtain ⟨r, r', e, e', same⟩ := exec_sameEffect ok ok' ⟨sameF, sameP, sameT⟩
  exact finish_sameEffect (e.symm.trans h) (e'.symm.trans h') same

end Sys2Proof.Scope
end

section
/-! SUPPORT. The words of the field commands and the two ends of a rule that checks its operand's range first
(41_field_arithmetic.md R120, R129 to R136). -/

namespace Sys2Proof.Scope

open Sys2Proof.Machine

/-- R95: the word of a command as the sum of its fields. -/
theorem encode_toNat (i : Instr) :
    (encode i).toNat = (commandOf i).op.toNat * 2 ^ 24 + (commandOf i).rd.toNat * 2 ^ 20 + (commandOf i).ra.toNat * 2 ^ 16 +
      (commandOf i).rb.toNat * 2 ^ 12 + (commandOf i).rc.toNat * 2 ^ 8 + (commandOf i).imm.toNat :=
  wordOf_toNat (commandOf i)

theorem modulusOf_eq (m : Modulus) : modulusOf m = if m = .p then Config.fieldPrime else Config.groupOrder := by
  cases m <;> rfl

/-- R132: no 256-bit value reaches twice a modulus, so one subtraction reduces it. -/
theorem toNat_mod_modulusOf (m : Modulus) (v : U256) :
    v.toNat % modulusOf m = if v.toNat < modulusOf m then v.toNat else v.toNat - modulusOf m := by
  have twice : 2 ^ 256 ≤ 2 * modulusOf m := by cases m <;> decide
  have bound := v.isLt
  split
  · next low => exact Nat.mod_eq_of_lt low
  · next high => rw [Nat.mod_eq_sub_mod (by omega), Nat.mod_eq_of_lt (by omega)]

/-- R127: a power is below p, so the destination holds it whole. -/
theorem result_fexp_toNat {e : Nat} (a : Nat) (h : e < 2 ^ 256) :
    (result (fexp a e)).toNat = a ^ e % Config.fieldPrime := by
  rw [result_toNat ((fexp_lt a e).trans fieldPrime_lt), fexp_eq a h]

section Ends

variable {s : State} {m : Modulus}

/-- R120: an operand below the modulus goes on to the rest of the rule. -/
theorem finish_inRange {v : U256} (low : v.toNat < modulusOf m) (rest : Nat → Except CmdError State) :
    finish s (operandBelow m v >>= rest) = finish s (rest v.toNat) := by
  rw [operandBelow_ok low, except_ok_bind]

/-- R120, R262: an operand not below the modulus is OPERAND_RANGE before the rest of the rule. -/
theorem finish_outOfRange {v : U256} (high : modulusOf m ≤ v.toNat) (rest : Nat → Except CmdError State) :
    finish s (operandBelow m v >>= rest) = .next { s with err := true, errcode := 0x02#8, busy := false, done := true } := by
  rw [operandBelow_error high, except_error_bind, finish_error, State.takeError_eq, CmdError.code]

variable (op : Nat → Nat → Nat → Nat) (rd : FReg) {ra rb : FReg}

/-- R129 to R131: both operands below the modulus. -/
theorem finish_binaryField_inRange (lowA : (s.readF ra).toNat < modulusOf m) (lowB : (s.readF rb).toNat < modulusOf m) :
    finish s (binaryField op m rd ra rb s) =
      .next { s.writeF rd (BitVec.ofNat 256 (op (modulusOf m) (s.readF ra).toNat (s.readF rb).toNat)) with
        busy := false, done := true } :=
  (finish_inRange lowA _).trans (finish_inRange lowB _)

/-- R129 to R131: one operand not below the modulus. -/
theorem finish_binaryField_outOfRange
    (high : modulusOf m ≤ (s.readF ra).toNat ∨ modulusOf m ≤ (s.readF rb).toNat) :
    finish s (binaryField op m rd ra rb s) =
      .next { s with err := true, errcode := 0x02#8, busy := false, done := true } := by
  obtain ⟨lowA, lowB, -⟩ | ⟨-, fails⟩ := binaryField_cases op m rd ra rb s
  · omega
  · rw [fails, finish_error, State.takeError_eq, CmdError.code]

end Ends

/-- Settles O31: the two ends of the shared rule, with the exact value of each operation. -/
theorem addSubMulComplete : Obligations.AddSubMulComplete := by
  intro s sel m a b rd ra rb
  rw [← modulusOf_eq]
  rintro rfl rfl rfl
  refine ⟨?words, fun lowA lowB => ⟨?sum, ?difference, ?product⟩, fun high => ?outOfRange⟩
  case words => simp [encode_toNat, commandOf]
  case sum =>
    rw [← fadd_eq lowA lowB]
    exact finish_binaryField_inRange fadd rd lowA lowB
  case difference =>
    rw [← fsub_eq lowA lowB]
    exact finish_binaryField_inRange fsub rd lowA lowB
  case product => exact finish_binaryField_inRange fmul rd lowA lowB
  case outOfRange =>
    exact ⟨finish_binaryField_outOfRange fadd rd high, finish_binaryField_outOfRange fsub rd high,
      finish_binaryField_outOfRange fmul rd high⟩

/-- Settles O32: the operand is below twice the modulus. -/
theorem reduceCompletes : Obligations.ReduceCompletes := by
  intro s sel m a rd ra
  rw [← modulusOf_eq]
  rintro rfl rfl
  exact ⟨by simp [encode_toNat, commandOf], toNat_mod_modulusOf sel _, rfl⟩

/-- Settles O34: the power is exact for every exponent a register can hold. -/
theorem powerCompletes : Obligations.PowerCompletes := by
  rintro s _ _ rd ra rb rfl rfl
  refine ⟨by simp [encode_toNat, commandOf], fun low => ?_, fun high => finish_outOfRange (m := .p) high _⟩
  exact ⟨_, result_fexp_toNat _ (s.readF rb).isLt, finish_inRange (m := .p) low _⟩

end Sys2Proof.Scope
end

section
/-! SUPPORT. Inverses, roots and residues as the commands FINV, FSQRT and FISQ give them (41_field_arithmetic.md R125, R126,
R128, R133, R134, R136). -/

namespace Sys2Proof.Scope

open Sys2Proof.Machine Sys2Proof.Laws

/-! ### Residues -/

theorem isQuad_eq_decide (v : Nat) : isQuad v = decide (v ^ ((Config.fieldPrime - 1) / 2) % Config.fieldPrime = 1) :=
  Bool.eq_iff_iff.2 ((isQuad_iff v).trans decide_eq_true_iff.symm)

theorem isQuad_zero : isQuad 0 = false := by
  rw [Bool.eq_false_iff, Ne, isQuad_iff_fp, Nat.cast_zero, zero_pow (by decide)]
  exact (cast_inj fieldPrime_pos (by decide)).not.2 zero_ne_one

theorem isQuad_one : isQuad 1 = true := by
  rw [isQuad_iff_fp, Nat.cast_one, one_pow]

/-- R128: the power of a nonzero value is 1 or p - 1. -/
theorem half_power_mod {v : Nat} (v0 : (v : Fp) ≠ 0) :
    v ^ ((Config.fieldPrime - 1) / 2) % Config.fieldPrime = 1 ∨
      v ^ ((Config.fieldPrime - 1) / 2) % Config.fieldPrime = Config.fieldPrime - 1 := by
  have lt : v ^ ((Config.fieldPrime - 1) / 2) % Config.fieldPrime < Config.fieldPrime := Nat.mod_lt _ fieldPrime_pos
  refine (half_power v0).imp (fun one => ?_) fun neg => ?_
  · rwa [← cast_inj lt (by decide), cast_mod, Nat.cast_pow, Nat.cast_one]
  · rwa [← cast_inj lt (by decide), cast_mod, Nat.cast_pow, Nat.cast_sub fieldPrime_pos, ZMod.natCast_self, zero_sub,
      Nat.cast_one]

/-- R128: `(p-1)/2` is odd, so v and p - v have opposite powers and one of the two is 1. -/
theorem isQuad_neg {v : Nat} (v0 : (v : Fp) ≠ 0) (le : v ≤ Config.fieldPrime) :
    isQuad (Config.fieldPrime - v) = !isQuad v := by
  rw [Bool.eq_iff_iff, Bool.not_eq_true', Bool.eq_false_iff, Ne, isQuad_iff_fp, isQuad_iff_fp, Nat.cast_sub le,
    ZMod.natCast_self, zero_sub, half_power_neg, neg_eq_iff_eq_neg]
  obtain one | neg := half_power v0
  · simp [one, one_ne_neg_one]
  · simp [neg, one_ne_neg_one.symm]

/-- Settles O37: each clause is a fact about the `(p-1)/2`-th power in the field of p elements. -/
theorem exactlyOneOfAPairIsAResidue : Obligations.ExactlyOneOfAPairIsAResidue := by
  refine ⟨isQuad_zero, isQuad_one, ?minusOne, fun v lt => ⟨isQuad_iff v, fun pos => ?nonzero⟩⟩
  case minusOne =>
    have one0 : ((1 : Nat) : Fp) ≠ 0 := (cast_eq_zero (by decide)).not.2 one_ne_zero
    rw [isQuad_neg one0 fieldPrime_pos, isQuad_one]
    rfl
  case nonzero =>
    have v0 : (v : Fp) ≠ 0 := (cast_eq_zero lt).not.2 pos.ne'
    exact ⟨half_power_mod v0, (isQuad_iff_isSquare v0).trans (isSquare_iff lt), isQuad_neg v0 lt.le⟩

/-- Settles O36: T takes Euler's criterion of the operand. -/
theorem residueTestCompletes : Obligations.ResidueTestCompletes := by
  rintro s _ ra rfl
  refine ⟨by simp [encode_toNat, commandOf], fun low => ?_, fun high => finish_outOfRange (m := .p) high _⟩
  rw [← isQuad_eq_decide]
  exact finish_inRange (m := .p) low _

/-! ### Inverses -/

theorem finv_zero : finv 0 = .error .invZero := if_pos rfl

theorem finv_of_ne_zero {a : Nat} (h : a ≠ 0) : finv a = .ok (fexp a (Config.fieldPrime - 2)) := if_neg h

/-- R125: the power that `finv` answers is the inverse. -/
theorem inverse_mul_mod {a : Nat} (a0 : (a : Fp) ≠ 0) : fexp a (Config.fieldPrime - 2) * a % Config.fieldPrime = 1 := by
  have := fact_fieldPrime
  rw [← cast_inj (Nat.mod_lt _ fieldPrime_pos) (by decide), cast_mod, Nat.cast_mul, cast_fexp a (by decide), ← pow_succ,
    Nat.cast_one]
  exact ZMod.pow_card_sub_one_eq_one a0

/-- Settles O33: the range check, then the test for 0, then Fermat's inverse. -/
theorem inverseCompletes : Obligations.InverseCompletes := by
  rintro s _ rd ra rfl
  refine ⟨by simp [encode_toNat, commandOf], fun low nonzero => ?inverse, fun high => finish_outOfRange (m := .p) high _,
    fun zero => ?zero⟩
  case inverse =>
    have value := result_fexp_toNat (s.readF ra).toNat (show Config.fieldPrime - 2 < 2 ^ 256 by decide)
    refine ⟨_, value, ?_, ?_⟩
    · rw [value, ← fexp_eq _ (by decide)]
      exact inverse_mul_mod ((cast_eq_zero low).not.2 nonzero)
    · refine (finish_inRange (m := .p) low _).trans ?_
      rw [finv_of_ne_zero nonzero]
      rfl
  case zero =>
    refine (finish_inRange (m := .p) (zero.trans_lt fieldPrime_pos) _).trans ?_
    rw [zero, finv_zero]
    rfl

/-! ### Square roots -/

/-- R126: `fsqrt` answers the candidate exactly for the squares. -/
theorem fsqrt_square {c : Nat} (lt : c < Config.fieldPrime) (square : IsSquare (c : Fp)) :
    fsqrt c = .ok (rootCandidate c) :=
  if_pos ((rootCandidate_spec lt).2 square)

theorem fsqrt_nonsquare {c : Nat} (lt : c < Config.fieldPrime) (nonsquare : ¬ IsSquare (c : Fp)) :
    fsqrt c = .error .noSqrt :=
  if_neg fun root => nonsquare ((rootCandidate_spec lt).1 root)

/-- Settles O35: a value below p has a root exactly if it is a square in the field, and then the candidate is its root. -/
theorem squareRootCompletes : Obligations.SquareRootCompletes := by
  rintro s _ rd ra rfl
  refine ⟨by simp [encode_toNat, commandOf], fun root => ?root, fun high => finish_outOfRange (m := .p) high _,
    fun low noRoot => ?noRoot⟩
  case root =>
    have low : (s.readF ra).toNat < Config.fieldPrime := by
      obtain ⟨y, square⟩ := root
      exact square ▸ Nat.mod_lt _ fieldPrime_pos
    have square := (isSquare_iff low).2 root
    have whole : (result (rootCandidate (s.readF ra).toNat)).toNat = rootCandidate (s.readF ra).toNat :=
      result_toNat ((rootCandidate_lt _).trans fieldPrime_lt)
    refine ⟨result (rootCandidate (s.readF ra).toNat), result_fexp_toNat _ (by decide), ?_, fun nonzero => ?_, ?_⟩
    · rw [whole]
      exact (rootCandidate_spec low).2 square
    · rw [whole]
      exact isQuad_rootCandidate square ((cast_eq_zero low).not.2 nonzero)
    · refine (finish_inRange (m := .p) low _).trans ?_
      rw [fsqrt_square low square]
      rfl
  case noRoot =>
    have nonsquare := (isSquare_iff low).not.2 fun ⟨y, square⟩ => noRoot y square
    refine (finish_inRange (m := .p) low _).trans ?_
    rw [fsqrt_nonsquare low nonsquare]
    rfl

end Sys2Proof.Scope
end

section
/-! SUPPORT. The commands that load, copy, build and look at points, and the end of a command that stores the answer of a
point function (42_curve_point.md R153 to R158, 43_encoding_xonly.md R183). -/

namespace Sys2Proof.Scope

open Sys2Proof.Machine Sys2Proof.Laws

/-! ### Moves and tests -/

theorem flagInf_eq_decide (q : Point) : flagInf q = decide (q = .inf) := by
  cases q with
  | inf => rfl
  | aff x y => rfl

/-- Settles O38: the words are sums of their fields, PISINF tells the tags apart, and the other rules only write. -/
theorem pointMovesComplete : Obligations.PointMovesComplete := by
  refine fun s rd ra => ⟨⟨?_, rfl⟩, ⟨?_, rfl⟩, ⟨?_, rfl⟩, ?_, ?isInf⟩
  case isInf =>
    rw [← flagInf_eq_decide]
    rfl
  all_goals simp [encode_toNat, commandOf]

/-! ### Coordinates -/

section Coordinates

variable {s : State} {q : Point} (rest : U256 × U256 → Except CmdError State)

/-- R157, R183: the coordinates of an affine point go on to the rest of the rule. -/
theorem finish_coordinates_aff {x y : U256} (h : q = .aff x y) :
    finish s (coordinates q >>= rest) = finish s (rest (x, y)) := by
  rw [h, coordinates_aff, except_ok_bind]

/-- R157, R183, R262: infinity has none. -/
theorem finish_coordinates_inf (h : q = .inf) :
    finish s (coordinates q >>= rest) = .next { s with err := true, errcode := 0x07#8, busy := false, done := true } := by
  rw [h, coordinates_inf, except_error_bind, finish_error, State.takeError_eq, CmdError.code]

end Coordinates

/-- Settles O40: both commands ask for the coordinates first. -/
theorem coordinateReadsComplete : Obligations.CoordinateReadsComplete := by
  refine fun s rd ra => ⟨⟨?_, ?_⟩, fun x y h => ⟨finish_coordinates_aff _ h, finish_coordinates_aff _ h⟩,
    fun h => ⟨finish_coordinates_inf _ h, finish_coordinates_inf _ h⟩⟩
  all_goals simp [encode_toNat, commandOf]

/-- R156: the curve equation as PSET tests it, each side reduced once. -/
theorem onCurve_iff_mod (x y : Nat) :
    onCurve x y = true ↔ y * y % Config.fieldPrime = (x * x * x + 7) % Config.fieldPrime := by
  rw [onCurve, beq_iff_eq, curveRhs_eq, fmul]

/-- R156: with both coordinates below p, PSET comes to the test of the curve equation. -/
theorem exec_pset_inRange {s : State} (rd : PReg) {ra rb : FReg} (lowX : (s.readF ra).toNat < Config.fieldPrime)
    (lowY : (s.readF rb).toNat < Config.fieldPrime) :
    exec (.pset rd ra rb) s = finish s (if onCurve (s.readF ra).toNat (s.readF rb).toNat = true then
      .ok (s.writeP rd (.aff (s.readF ra) (s.readF rb))) else .error .notOnCurve) :=
  (finish_inRange (m := .p) lowX _).trans (finish_inRange (m := .p) lowY _)

/-- R156: a coordinate not below p is OPERAND_RANGE, whatever the other one is. -/
theorem exec_pset_outOfRange {s : State} (rd : PReg) {ra rb : FReg}
    (high : Config.fieldPrime ≤ (s.readF ra).toNat ∨ Config.fieldPrime ≤ (s.readF rb).toNat) :
    exec (.pset rd ra rb) s = .next { s with err := true, errcode := 0x02#8, busy := false, done := true } := by
  by_cases highX : Config.fieldPrime ≤ (s.readF ra).toNat
  · exact finish_outOfRange (m := .p) highX _
  · have highY := high.resolve_left highX
    exact (finish_inRange (m := .p) (Nat.lt_of_not_le highX) _).trans (finish_outOfRange (m := .p) highY _)

/-- Settles O39: the range checks of both coordinates, then the curve equation. -/
theorem pointSetCompletes : Obligations.PointSetCompletes := by
  rintro s _ _ rd ra rb rfl rfl
  refine ⟨by simp [encode_toNat, commandOf], fun lowX lowY on => ?_, exec_pset_outOfRange rd, fun lowX lowY off => ?_⟩
  · rw [exec_pset_inRange rd lowX lowY, if_pos ((onCurve_iff_mod _ _).2 on)]
    rfl
  · rw [exec_pset_inRange rd lowX lowY, if_neg ((onCurve_iff_mod _ _).not.2 off)]
    rfl

end Sys2Proof.Scope
end

section
/-! SUPPORT. The sum of two points in integers modulo p, and the commands PADD and PDBL (42_curve_point.md R151, R159,
R161). -/

namespace Sys2Proof.Scope

open Sys2Proof.Machine Sys2Proof.Laws

/-! ### The slopes -/

/-- R151 case 4: the tangent's slope, where `2y` can be inverted. -/
theorem tangentSlope_ok {x y : Nat} (y0 : (y : Fp) ≠ 0) :
    ∃ lam, tangentSlope x y = .ok lam ∧ (lam : Fp) * (2 * y) = 3 * x * x := by
  have := fact_fieldPrime
  have den0 : (fmul Config.fieldPrime 2 y : Fp) ≠ 0 := by
    rw [cast_fmul]
    exact mul_ne_zero two_ne_zero_fp y0
  obtain ⟨inv, einv, -, cinv⟩ := finv_ok den0
  refine ⟨_, by rw [tangentSlope, einv, except_ok_bind, except_pure], ?_⟩
  rw [cast_fmul] at den0
  simp only [cast_fmul, cinv, Nat.cast_ofNat] at den0 ⊢
  rw [inv_mul_cancel_right₀ den0, mul_assoc]

/-- R151 case 5: the chord's slope, where `x2 - x1` can be inverted. -/
theorem chordSlope_ok {x1 x2 : Nat} (y1 y2 : Nat) (ne : (x1 : Fp) ≠ x2) :
    ∃ lam, chordSlope x1 y1 x2 y2 = .ok lam ∧ (lam : Fp) * (x2 - x1) = y2 - y1 := by
  have := fact_fieldPrime
  have den0 : (x2 : Fp) - x1 ≠ 0 := sub_ne_zero.2 ne.symm
  obtain ⟨inv, einv, -, cinv⟩ := finv_ok (a := fsub Config.fieldPrime x2 x1) (by rwa [cast_fsub])
  refine ⟨_, by rw [chordSlope, einv, except_ok_bind, except_pure], ?_⟩
  rw [cast_fmul, cinv, cast_fsub, cast_fsub, inv_mul_cancel_right₀ den0]

/-- R151 case 4: a doubling with `y = 0` inverts 0. -/
theorem tangentSlope_zero (x : Nat) : tangentSlope x 0 = .error .invZero := by
  rw [tangentSlope, fmul, Nat.mul_zero, Nat.zero_mod, finv_zero, except_error_bind]

theorem additionSlope_self (x y1 y2 : U256) : additionSlope x y1 x y2 = tangentSlope x.toNat y1.toNat := if_pos rfl

theorem additionSlope_of_ne {x1 x2 : U256} (y1 y2 : U256) (ne : x1 ≠ x2) :
    additionSlope x1 y1 x2 y2 = chordSlope x1.toNat y1.toNat x2.toNat y2.toNat := if_neg ne

/-! ### The cases of `point_add` -/

theorem pointAdd_inf_right (q : Point) : pointAdd q .inf = .ok q := by
  cases q with
  | inf => rfl
  | aff x y => rfl

/-- R151 case 3. -/
theorem pointAdd_opposite {x y1 y2 : U256} (ne : y1 ≠ y2) : pointAdd (.aff x y1) (.aff x y2) = .ok .inf :=
  if_pos ⟨rfl, ne⟩

/-- R151 cases 4 and 5: where case 3 does not apply, the sum hangs on the slope. -/
theorem pointAdd_aff {x1 y1 x2 y2 : U256} (cancel : ¬(x1 = x2 ∧ y1 ≠ y2)) :
    pointAdd (.aff x1 y1) (.aff x2 y2) =
      additionSlope x1 y1 x2 y2 >>= fun lam => .ok (chordPoint lam x1.toNat y1.toNat x2.toNat) := if_neg cancel

/-- Equality modulo p is equality in the field. -/
theorem mod_eq_iff {a b : Nat} : a % Config.fieldPrime = b % Config.fieldPrime ↔ (a : Fp) = b :=
  (ZMod.natCast_eq_natCast_iff' a b _).symm

/-- R151 cases 4 and 5 on points: the sum for a slope is a point, with these coordinates modulo p. -/
theorem pointAdd_of_slope {x1 y1 x2 y2 : U256} {lam : Nat} (h1 : (Point.aff x1 y1).valid = true)
    (h2 : (Point.aff x2 y2).valid = true) (cancel : ¬(x1 = x2 ∧ y1 ≠ y2)) (slope : additionSlope x1 y1 x2 y2 = .ok lam) :
    ∃ x3 y3 : U256, (x3.toNat + x1.toNat + x2.toNat) % Config.fieldPrime = lam * lam % Config.fieldPrime ∧
      (y3.toNat + y1.toNat + lam * x3.toNat) % Config.fieldPrime = lam * x1.toNat % Config.fieldPrime ∧
      (Point.aff x3 y3).valid = true ∧ pointAdd (.aff x1 y1) (.aff x2 y2) = .ok (.aff x3 y3) := by
  obtain ⟨x3, y3, point, -, -, cx3, cy3⟩ := chordPoint_coords lam x1.toNat y1.toNat x2.toNat
  have sum : pointAdd (.aff x1 y1) (.aff x2 y2) = .ok (.aff x3 y3) := by
    rw [pointAdd_aff cancel, slope, except_ok_bind, point]
  refine ⟨x3, y3, ?_, ?_, pointAdd_valid h1 h2 sum, sum⟩
  · rw [mod_eq_iff]
    push_cast
    linear_combination cx3
  · rw [mod_eq_iff]
    push_cast
    linear_combination cy3

/-- R151 case 4 on a point. -/
theorem pointAdd_self {x y : U256} (h : (Point.aff x y).valid = true) :
    ∃ (lam : Nat) (x3 y3 : U256), lam * (2 * y.toNat) % Config.fieldPrime = 3 * x.toNat * x.toNat % Config.fieldPrime ∧
      (x3.toNat + 2 * x.toNat) % Config.fieldPrime = lam * lam % Config.fieldPrime ∧
      (y3.toNat + y.toNat + lam * x3.toNat) % Config.fieldPrime = lam * x.toNat % Config.fieldPrime ∧
      (Point.aff x3 y3).valid = true ∧ pointAdd (.aff x y) (.aff x y) = .ok (.aff x3 y3) := by
  obtain ⟨-, -, equation⟩ := valid_aff.1 h
  obtain ⟨lam, slope, clam⟩ := tangentSlope_ok (x := x.toNat) (y_ne_zero equation)
  obtain ⟨x3, y3, hx3, hy3, valid, sum⟩ :=
    pointAdd_of_slope h h (fun cancel => cancel.2 rfl) ((additionSlope_self x y y).trans slope)
  refine ⟨lam, x3, y3, ?_, by rwa [two_mul, ← add_assoc], hy3, valid, sum⟩
  rw [mod_eq_iff]
  exact_mod_cast clam

/-- R151 case 5 on points. -/
theorem pointAdd_of_x_ne {x1 y1 x2 y2 : U256} (h1 : (Point.aff x1 y1).valid = true) (h2 : (Point.aff x2 y2).valid = true)
    (ne : x1 ≠ x2) :
    ∃ (lam : Nat) (x3 y3 : U256),
      (lam * x2.toNat + y1.toNat) % Config.fieldPrime = (lam * x1.toNat + y2.toNat) % Config.fieldPrime ∧
      (x3.toNat + x1.toNat + x2.toNat) % Config.fieldPrime = lam * lam % Config.fieldPrime ∧
      (y3.toNat + y1.toNat + lam * x3.toNat) % Config.fieldPrime = lam * x1.toNat % Config.fieldPrime ∧
      (Point.aff x3 y3).valid = true ∧ pointAdd (.aff x1 y1) (.aff x2 y2) = .ok (.aff x3 y3) := by
  obtain ⟨low1, -, -⟩ := valid_aff.1 h1
  obtain ⟨low2, -, -⟩ := valid_aff.1 h2
  have ne' : ((x1.toNat : Nat) : Fp) ≠ x2.toNat := by rwa [Ne, cast_inj low1 low2, BitVec.toNat_inj]
  obtain ⟨lam, slope, clam⟩ := chordSlope_ok y1.toNat y2.toNat ne'
  obtain ⟨x3, y3, coords⟩ :=
    pointAdd_of_slope h1 h2 (fun cancel => ne cancel.1) ((additionSlope_of_ne y1 y2 ne).trans slope)
  refine ⟨lam, x3, y3, ?_, coords⟩
  rw [mod_eq_iff]
  push_cast
  linear_combination clam

/-- Settles O44: case by case of R151. -/
theorem pointAdditionFollowsItsFiveCases : Obligations.PointAdditionFollowsItsFiveCases := by
  refine ⟨fun q => ⟨rfl, pointAdd_inf_right q⟩, fun x y1 y2 => pointAdd_opposite, fun x y => pointAdd_self,
    fun x1 y1 x2 y2 => pointAdd_of_x_ne, fun x => ?_⟩
  rw [pointAdd_aff fun cancel => cancel.2 rfl, additionSlope_self, BitVec.toNat_zero, tangentSlope_zero, except_error_bind]

/-! ### The commands -/

section StoredPoint

variable {s : State} (rd : PReg) {r : Except CmdError Point}

/-- R159, R161, R162: the point that a point function answers is written. -/
theorem finish_storePoint_ok {q : Point} (h : r = .ok q) :
    finish s (storePoint rd r s) = .next { s.writeP rd q with busy := false, done := true } := by
  rw [h, storePoint_ok, finish_ok, State.complete_eq]

/-- R159, R161, R162, R262: where the function can fail with INV_ZERO alone, so does the command. -/
theorem finish_storePoint_invZero {e : CmdError} (raises : Raises [.invZero] r) (h : r = .error e) :
    finish s (storePoint rd r s) = .next { s with err := true, errcode := 0x03#8, busy := false, done := true } := by
  obtain rfl : e = .invZero := List.mem_singleton.1 (raises e h)
  rw [h, storePoint_error, finish_error, State.takeError_eq, CmdError.code]

end StoredPoint

/-- R33, R151: two points have a sum, and it is a point. -/
theorem pointAdd_total {q r : Point} (hq : q.valid = true) (hr : r.valid = true) :
    ∃ z, z.valid = true ∧ pointAdd q r = .ok z := by
  obtain ⟨-, closed, -⟩ := pointsFormACommutativeGroup
  obtain ⟨z, hz, sum, -⟩ := closed q r hq hr
  exact ⟨z, hz, sum⟩

/-- Settles O43: both commands store a sum of `point_add`, which fails on no two points and with INV_ZERO alone. -/
theorem pointAdditionCommandsComplete : Obligations.PointAdditionCommandsComplete := by
  refine fun s rd ra rb => ⟨⟨?_, ?_⟩, fun ha hb => ?add, fun ha => ?double,
    fun e => finish_storePoint_invZero rd (pointAdd_raises (.head _) _ _),
    fun e => finish_storePoint_invZero rd (pointAdd_raises (.head _) _ _)⟩
  case add =>
    obtain ⟨q, valid, sum⟩ := pointAdd_total ha hb
    exact ⟨q, valid, sum, finish_storePoint_ok rd sum⟩
  case double =>
    obtain ⟨q, valid, sum⟩ := pointAdd_total ha ha
    exact ⟨q, valid, sum, finish_storePoint_ok rd sum⟩
  all_goals simp [encode_toNat, commandOf]

end Sys2Proof.Scope
end

section
/-! SUPPORT. Scalar multiplication as the repeated sum, and the command PMUL (42_curve_point.md R160, R162). -/

namespace Sys2Proof.Scope

open Sys2Proof.Machine Sys2Proof.Laws

/-- R160, R12: the k-fold sum of a point by `point_add` is its k-th multiple in the library's group. -/
theorem sumOf_toW [DecidableEq Fp] [Fact (Nat.Prime Config.fieldPrime)] {q : Point} (hq : q.valid = true) (k : Nat) :
    ∃ (z : Point) (hz : z.valid = true), sumOf q k = .ok z ∧ toW z hz = k • toW q hq := by
  induction k with
  | zero => exact ⟨.inf, rfl, rfl, (toW_inf _).trans (zero_nsmul _).symm⟩
  | succ k ih =>
    obtain ⟨acc, hacc, eacc, wacc⟩ := ih
    obtain ⟨z, hz, ez, wz⟩ := pointAdd_toW hacc hq
    exact ⟨z, hz, by rw [sumOf, eacc, except_ok_bind, ez], by rw [wz, wacc, succ_nsmul]⟩

/-- Settles O46: the loop and the repeated sum give the same multiple in the library's group. -/
theorem scalarMultiplicationIsTheRepeatedSum : Obligations.ScalarMultiplicationIsTheRepeatedSum := by
  classical
  have := fact_fieldPrime
  intro q k hq
  obtain ⟨z, hz, sum, multiple⟩ := sumOf_toW hq k.toNat
  exact ⟨z, hz, (pointMul_eq_ok_iff hq hz k).2 multiple, sum⟩

/-- Settles O47: PMUL stores `point_mul`, which on a point is the repeated sum and fails with INV_ZERO alone. -/
theorem scalarMultiplicationCompletes : Obligations.ScalarMultiplicationCompletes := by
  refine fun s rd ra rb => ⟨by simp [encode_toNat, commandOf], fun ha => ?_,
    fun e => finish_storePoint_invZero rd (pointMul_raises (.head _) _ _)⟩
  obtain ⟨q, -, product, sum⟩ := scalarMultiplicationIsTheRepeatedSum (s.readP ra) (s.readF rb) ha
  exact ⟨q, product, sum, finish_storePoint_ok rd product⟩

end Sys2Proof.Scope
end

section
/-! SUPPORT. Decoding an x-coordinate: which points `lift_x` answers, and the command PLIFT (43_encoding_xonly.md R181, R182,
R185). -/

namespace Sys2Proof.Scope

open Sys2Proof.Machine Sys2Proof.Laws

/-! ### The points that `lift_x` answers -/

/-- R181: the x-coordinate of a point has a root. -/
theorem isSquare_curveRhs_of_valid {x y : U256} (h : (Point.aff x y).valid = true) : IsSquare (curveRhs x.toNat : Fp) := by
  obtain ⟨-, -, equation⟩ := valid_aff.1 h
  exact ⟨y.toNat, by rw [cast_curveRhs, ← equation, sq]⟩

/-- R128, R185: at most one of the points with a given x has a residue y. -/
theorem residue_y_unique {x y z : U256} (hy : (Point.aff x y).valid = true) (hz : (Point.aff x z).valid = true)
    (quadY : isQuad y.toNat = true) (quadZ : isQuad z.toNat = true) : y = z := by
  obtain ⟨-, lowY, equationY⟩ := valid_aff.1 hy
  obtain ⟨-, lowZ, equationZ⟩ := valid_aff.1 hz
  rw [← BitVec.toNat_inj, ← cast_inj lowY lowZ]
  exact residue_root_unique (equationY.trans equationZ.symm) ((isQuad_iff_fp _).1 quadY) ((isQuad_iff_fp _).1 quadZ)

/-- R181, R185: `lift_x` answers exactly the points with this x and a residue y. -/
theorem liftX_eq_ok_iff {x : U256} {q : Point} :
    liftX x = .ok q ↔ ∃ y : U256, q = .aff x y ∧ q.valid = true ∧ isQuad y.toNat = true := by
  constructor
  · intro h
    obtain ⟨-, fails⟩ | ⟨-, -, fails⟩ | ⟨-, -, y, -, decodes, valid, quad⟩ := liftX_cases x
    · exact absurd (h.symm.trans fails) nofun
    · exact absurd (h.symm.trans fails) nofun
    · obtain rfl : q = .aff x y := Except.ok.inj (h.symm.trans decodes)
      exact ⟨y, rfl, valid, quad⟩
  · rintro ⟨y, rfl, valid, quad⟩
    obtain ⟨low, -, -⟩ := valid_aff.1 valid
    obtain ⟨high, -⟩ | ⟨-, nonsquare, -⟩ | ⟨-, -, z, -, decodes, validZ, quadZ⟩ := liftX_cases x
    · exact absurd low high.not_gt
    · exact absurd (isSquare_curveRhs_of_valid valid) nonsquare
    · rw [decodes, residue_y_unique validZ valid quadZ quad]

/-- R12: no point has y = 0. -/
theorem y_toNat_ne_zero {x y : U256} (h : (Point.aff x y).valid = true) : y.toNat ≠ 0 := by
  obtain ⟨-, low, equation⟩ := valid_aff.1 h
  exact (cast_eq_zero low).not.1 (y_ne_zero equation)

/-- R185, R12: the negative of a point has the y-coordinate `p - y`, which is below p. -/
theorem opposite_y_toNat {x y : U256} (h : (Point.aff x y).valid = true) :
    (BitVec.ofNat 256 (Config.fieldPrime - y.toNat)).toNat = Config.fieldPrime - y.toNat :=
  toNat_ofNat_lt (Nat.sub_lt fieldPrime_pos (Nat.pos_of_ne_zero (y_toNat_ne_zero h)))

/-- R185: the negative of a point, with no case for y = 0. -/
theorem negPoint_aff {x y : U256} (h : (Point.aff x y).valid = true) :
    negPoint (.aff x y) = .aff x (BitVec.ofNat 256 (Config.fieldPrime - y.toNat)) := by
  obtain ⟨-, low, -⟩ := valid_aff.1 h
  rw [negPoint, fsub_eq fieldPrime_pos low, if_neg (Nat.le_zero.not.2 (y_toNat_ne_zero h)), Nat.zero_add]

/-- R128, R185: where y is no residue, `p - y` is one. -/
theorem isQuad_opposite_y {x y : U256} (h : (Point.aff x y).valid = true) (nonresidue : ¬ isQuad y.toNat = true) :
    isQuad (BitVec.ofNat 256 (Config.fieldPrime - y.toNat)).toNat = true := by
  obtain ⟨-, low, equation⟩ := valid_aff.1 h
  rw [opposite_y_toNat h, isQuad_neg (y_ne_zero equation) low.le, Bool.eq_false_of_not_eq_true nonresidue, Bool.not_false]

/-- Settles O42: of a point and its negative exactly one has a residue y, and `lift_x` answers that one. -/
theorem liftingAnXCoordinateGivesThePointOrItsNegative :
    Obligations.LiftingAnXCoordinateGivesThePointOrItsNegative := by
  refine ⟨fun x y valid => ?_, fun x q => liftX_eq_ok_iff.1⟩
  rw [liftX_eq_ok_iff]
  split
  · next residue => exact ⟨y, rfl, valid, residue⟩
  · next nonresidue =>
    obtain ⟨validNeg, -⟩ := negPoint_toW valid
    exact ⟨_, rfl, negPoint_aff valid ▸ validNeg, isQuad_opposite_y valid nonresidue⟩

/-! ### The command PLIFT -/

/-- R181: `x³ + 7` has a root in integers modulo p exactly if it is a square in the field. -/
theorem isSquare_curveRhs_iff (x : Nat) :
    IsSquare (curveRhs x : Fp) ↔ ∃ y : Nat, y * y % Config.fieldPrime = (x * x * x + 7) % Config.fieldPrime := by
  rw [isSquare_iff (curveRhs_lt x), curveRhs_eq]

/-- R126, R181: the candidate root of `x³ + 7` as an integer power. -/
theorem rootCandidate_curveRhs (x : Nat) :
    rootCandidate (curveRhs x) =
      ((x * x * x + 7) % Config.fieldPrime) ^ ((Config.fieldPrime + 1) / 4) % Config.fieldPrime := by
  rw [rootCandidate, fexp_eq _ (by decide), curveRhs_eq]

/-- R181: x is not below p, or `x³ + 7` has no root. -/
theorem liftX_pointDecode {x : U256} (undecodable : Config.fieldPrime ≤ x.toNat ∨ ¬ IsSquare (curveRhs x.toNat : Fp)) :
    liftX x = .error .pointDecode := by
  obtain ⟨-, fails⟩ | ⟨-, -, fails⟩ | ⟨low, square, -⟩ := liftX_cases x
  · exact fails
  · exact fails
  · exact (undecodable.elim low.not_ge (· square)).elim

/-- R182, R262: where `lift_x` does not decode, PLIFT writes nothing. -/
theorem finish_storePoint_pointDecode {s : State} (rd : PReg) {r : Except CmdError Point} (h : r = .error .pointDecode) :
    finish s (storePoint rd r s) = .next { s with err := true, errcode := 0x05#8, busy := false, done := true } := by
  rw [h, storePoint_error, finish_error, State.takeError_eq, CmdError.code]

/-- Settles O41: PLIFT stores what `lift_x` answers, in each of its three cases. -/
theorem liftCompletes : Obligations.LiftCompletes := by
  rintro s _ rd ra rfl
  refine ⟨by simp [encode_toNat, commandOf], fun low root => ?root, fun high => ?high, fun low noRoot => ?noRoot⟩
  case root =>
    obtain ⟨high, -⟩ | ⟨-, nonsquare, -⟩ | ⟨-, -, y, power, decodes, valid, quad⟩ := liftX_cases (s.readF ra)
    · exact absurd low high.not_gt
    · exact absurd ((isSquare_curveRhs_iff _).2 root) nonsquare
    · exact ⟨y, power.trans (rootCandidate_curveRhs _), valid, quad, y_toNat_ne_zero valid, finish_storePoint_ok rd decodes⟩
  case high => exact finish_storePoint_pointDecode rd (liftX_pointDecode (.inl high))
  case noRoot =>
    refine finish_storePoint_pointDecode rd (liftX_pointDecode (.inr ?_))
    exact (isSquare_curveRhs_iff _).not.2 fun ⟨y, square⟩ => noRoot y square

end Sys2Proof.Scope
end

section
/-! SUPPORT. The padding of SHA-256 (44_tagged_hash.md R191): the message length as the number its last 8 bytes spell. -/

namespace Sys2Proof.Scope

open Sys2Proof.Machine

/-- The first j of the 8 big-endian bytes of a 64-bit word spell its highest 8j bits. -/
theorem bigEndian_leadingBytes (v : BitVec 64) {j : Nat} (h : j ≤ 8) :
    bigEndian ((List.range j).map fun k => v.extractLsb' (56 - 8 * k) 8) = v.toNat / 2 ^ (64 - 8 * j) := by
  induction j with
  | zero => exact (Nat.div_eq_of_lt v.isLt).symm
  | succ j ih =>
    have weight : 2 ^ (64 - 8 * j) = 2 ^ (56 - 8 * j) * 2 ^ 8 := by
      rw [← pow_add]
      congr 1
      omega
    have next : 64 - 8 * (j + 1) = 56 - 8 * j := by omega
    rw [List.range_succ, List.map_append, List.map_singleton, bigEndian_snoc, ih (by omega), BitVec.extractLsb'_toNat,
      Nat.shiftRight_eq_div_pow, weight, ← Nat.div_div_eq_div_mul, next]
    exact Nat.div_add_mod _ 256

/-- R191 step 1: the bit length of a message of n bytes, modulo 2^64, as 8 big-endian bytes. -/
def bitLengthBytes (n : Nat) : List Byte := (List.range 8).map fun k => (BitVec.ofNat 64 (8 * n)).extractLsb' (56 - 8 * k) 8

theorem bitLengthBytes_length (n : Nat) : (bitLengthBytes n).length = 8 := by simp [bitLengthBytes]

/-- R191 step 1: below 2^61 bytes the bit length is not cut. -/
theorem bigEndian_bitLengthBytes {n : Nat} (h : n < 2 ^ 61) : bigEndian (bitLengthBytes n) = 8 * n := by
  have fits : 8 * n < 2 ^ 64 := by omega
  rw [bitLengthBytes, bigEndian_leadingBytes _ le_rfl, BitVec.toNat_ofNat, Nat.mod_eq_of_lt fits, Nat.sub_self, pow_zero,
    Nat.div_one]

/-- R191 step 1: the four parts of the padded message. -/
theorem shaPad_eq (msg : List Byte) :
    shaPad msg = msg ++ [0x80#8] ++ List.replicate ((119 - msg.length % 64) % 64) 0#8 ++ bitLengthBytes msg.length := by
  rw [List.append_assoc msg]
  rfl

/-- R191 step 1: the zeros end 8 bytes before the end of a block, and there are fewer of them than a block has bytes. -/
theorem padding_zeros (n : Nat) : (119 - n % 64) % 64 < 64 ∧ ((119 - n % 64) % 64 + n) % 64 = 55 := by omega

/-- Settles O50: the parts are those of `shaPad_eq`, and 1 + 8 bytes beside the message and the zeros fill the block. -/
theorem paddingFillsTheLastBlock : Obligations.PaddingFillsTheLastBlock := by
  intro msg short
  obtain ⟨few, fills⟩ := padding_zeros msg.length
  refine ⟨_, _, shaPad_eq msg, few, fills, ?blocks, bitLengthBytes_length _, bigEndian_bitLengthBytes short⟩
  case blocks =>
    rw [shaPad_eq]
    simp only [List.length_append, List.length_singleton, List.length_replicate, bitLengthBytes_length]
    omega

end Sys2Proof.Scope
end

section
/-! SUPPORT. The message schedule of SHA-256 (44_tagged_hash.md R195): each word of the model's list, which grows at its head,
by its place in the schedule. -/

namespace Sys2Proof.Scope

open Sys2Proof.Machine

/-! ### The words of the block -/

/-- R195: four bytes as a number fit a word. -/
theorem wordOfBytes_toNat {b : List Byte} (h : b.length = 4) : (wordOfBytes b).toNat = bigEndian b := by
  have small : bigEndian b < 2 ^ 32 := by simpa [h] using bigEndian_lt b
  exact (BitVec.toNat_ofNat _ _).trans (Nat.mod_eq_of_lt small)

theorem take_four_drop {b : List Byte} {n : Nat} (h : n + 4 ≤ b.length) :
    (b.drop n).take 4 = [b.getD n 0#8, b.getD (n + 1) 0#8, b.getD (n + 2) 0#8, b.getD (n + 3) 0#8] := by
  rw [List.drop_eq_getElem_cons (by omega), List.drop_eq_getElem_cons (by omega), List.drop_eq_getElem_cons (by omega),
    List.drop_eq_getElem_cons (by omega)]
  simp only [List.take_succ_cons, List.take_zero, List.getD_eq_getElem _ _ (show n < b.length by omega),
    List.getD_eq_getElem _ _ (show n + 1 < b.length by omega), List.getD_eq_getElem _ _ (show n + 2 < b.length by omega),
    List.getD_eq_getElem _ _ (show n + 3 < b.length by omega)]

/-- R195: word t of a block is its bytes 4t to 4t+3, big-endian. -/
theorem blockWords_getD_toNat {block : List Byte} (size : block.length = 64) {t : Nat} (h : t < 16) :
    ((blockWords block).getD t 0#32).toNat =
      (block.getD (4 * t) 0#8).toNat * 2 ^ 24 + (block.getD (4 * t + 1) 0#8).toNat * 2 ^ 16 +
        (block.getD (4 * t + 2) 0#8).toNat * 2 ^ 8 + (block.getD (4 * t + 3) 0#8).toNat := by
  have bytes := take_four_drop (b := block) (n := 4 * t) (by omega)
  have word : (blockWords block).getD t 0#32 = wordOfBytes ((block.drop (4 * t)).take 4) := by
    simp [blockWords, h]
  rw [word, bytes, wordOfBytes_toNat rfl]
  simp only [bigEndian, List.foldl_cons, List.foldl_nil]
  omega

/-! ### The words that follow -/

/-- The words computed first stand behind the words computed from them. -/
theorem extendW_add (j k : Nat) (latest : List U32) : extendW (j + k) latest = extendW k (extendW j latest) := by
  induction j generalizing latest with
  | zero => rw [Nat.zero_add]; rfl
  | succ j ih => rw [Nat.succ_add]; exact ih _

theorem extendW_succ (k : Nat) (latest : List U32) :
    extendW (k + 1) latest = nextW (extendW k latest) :: extendW k latest := extendW_add k 1 latest

theorem extendW_length (k : Nat) (latest : List U32) : (extendW k latest).length = k + latest.length := by
  induction k with
  | zero => exact (Nat.zero_add _).symm
  | succ k ih => rw [extendW_succ, List.length_cons, ih, Nat.succ_add]

/-- k more words push every earlier word back by k places. -/
theorem extendW_getD_add (k i : Nat) (latest : List U32) : (extendW k latest).getD (k + i) 0#32 = latest.getD i 0#32 := by
  induction k with
  | zero => rw [Nat.zero_add]; rfl
  | succ k ih => rw [extendW_succ, Nat.succ_add, List.getD_cons_succ, ih]

theorem blockWords_length (block : List Byte) : (blockWords block).length = 16 := by simp [blockWords]

theorem scheduleW_length (block : List Byte) : (scheduleW block).length = 64 := by
  rw [scheduleW, List.length_reverse, extendW_length, List.length_reverse, blockWords_length]

/-- Once j words follow those of the block, entry i from the head is word 15+j-i of the schedule, and stays so. -/
theorem scheduleW_getD (block : List Byte) {j i t : Nat} (more : j ≤ 48) (place : t + i = 15 + j) :
    (scheduleW block).getD t 0#32 = (extendW j (blockWords block).reverse).getD i 0#32 := by
  have size : (extendW 48 (blockWords block).reverse).length = 64 := by
    rw [extendW_length, List.length_reverse, blockWords_length]
  have split : 48 = j + (48 - j) := by omega
  have pushed : 64 - 1 - t = 48 - j + i := by omega
  rw [scheduleW, List.getD_reverse _ (by omega), size, pushed, split, extendW_add, Nat.add_sub_cancel_left, extendW_getD_add]

/-- R195: the first 16 words are the block's. -/
theorem scheduleW_getD_block (block : List Byte) {t : Nat} (h : t < 16) :
    (scheduleW block).getD t 0#32 = (blockWords block).getD t 0#32 := by
  have size := blockWords_length block
  have mirrored : (blockWords block).length - 1 - (15 - t) = t := by omega
  rw [scheduleW_getD block (Nat.zero_le 48) (show t + (15 - t) = 15 + 0 by omega), extendW,
    List.getD_reverse _ (by omega), mirrored]

/-- Settles O51: words 0 to 15 are the block's; word t is the head of the list with t - 15 words added, and `nextW` reads
the words before it at the entries that `scheduleW_getD` names. -/
theorem scheduleFollowsItsRecurrence : Obligations.ScheduleFollowsItsRecurrence := by
  refine fun block size => ⟨scheduleW_length block, fun t early => ?block, fun t late bound => ?recurrence⟩
  case block => rw [scheduleW_getD_block block early, blockWords_getD_toNat size early]
  case recurrence =>
    obtain ⟨k, rfl⟩ := Nat.exists_eq_add_of_le late
    have back (i : Nat) (h : i ≤ 16) : (scheduleW block).getD (16 + k - i) 0#32 =
        (extendW (k + 1) (blockWords block).reverse).getD i 0#32 := scheduleW_getD block (by omega) (by omega)
    have head := back 0 (by omega)
    rw [Nat.sub_zero] at head
    rw [head, back 2 (by omega), back 7 (by omega), back 15 (by omega), back 16 (by omega), extendW_succ]
    rfl

end Sys2Proof.Scope
end

section
/-! SUPPORT. The digests of SHA-256 on short messages and the command THASH (44_tagged_hash.md R196 to R198). -/

namespace Sys2Proof.Scope

open Sys2Proof.Machine

/-- Settles O52: each digest by evaluating the model. -/
theorem knownDigests : Obligations.KnownDigests := by
  refine ⟨?empty, ?abc, ?derive, ?challenge⟩
  case empty => decide +kernel
  case abc => decide +kernel
  case derive => decide +kernel
  case challenge => decide +kernel

/-- R197, R198: the tag bytes are the ASCII codes of the tag's characters. -/
theorem tagBytes_eq (tag : Tag) : tagBytes tag =
    (if tag = .derive then "BIPSchnorrDerive" else "BIPSchnorr").toList.map fun c => BitVec.ofNat 8 c.toNat := by
  cases tag <;> rfl

/-- R198: counting up from `F[ra]` gives the registers from ra to ra+cnt-1 in ascending order, when none is past `F15`. -/
theorem consecutiveRegs_eq_filter {ra : FReg} {cnt : Nat} (inRange : ra.val + cnt ≤ 16) :
    (List.range cnt).map (fun k => Fin.ofNat 16 (ra.val + k)) =
      (List.finRange 16).filter fun r => decide (ra.val ≤ r.val ∧ r.val < ra.val + cnt) := by
  have val {k : Nat} (h : k < cnt) : (Fin.ofNat 16 (ra.val + k)).val = ra.val + k := Nat.mod_eq_of_lt (by omega)
  have ascending : ((List.range cnt).map fun k => Fin.ofNat 16 (ra.val + k)).Pairwise (· < ·) := by
    refine List.pairwise_map.2 (List.pairwise_lt_range.imp_of_mem fun {a b} ha hb lt => ?_)
    rw [Fin.lt_def, val (List.mem_range.1 ha), val (List.mem_range.1 hb)]
    omega
  refine ascending.eq_of_mem_iff ((List.sortedLT_finRange 16).pairwise.filter _) fun r => ?_
  simp only [List.mem_map, List.mem_range, List.mem_filter, List.mem_finRange, true_and, decide_eq_true_eq]
  constructor
  · rintro ⟨k, hk, rfl⟩
    rw [val hk]
    omega
  · rintro ⟨low, high⟩
    have hk : r.val - ra.val < cnt := by omega
    exact ⟨_, hk, Fin.ext (by rw [val hk]; omega)⟩

/-- R198: the registers hashed, read in the order of their numbers. -/
theorem messageRegs_flatMap_bytes32 (s : State) {ra : FReg} {cnt : Fin 16} (inRange : ra.val + cnt.val ≤ 16) :
    (messageRegs s ra cnt).flatMap bytes32 =
      ((List.finRange 16).filter fun r => decide (ra.val ≤ r.val ∧ r.val < ra.val + cnt.val)).flatMap
        fun r => bytes32 (s.readF r) := by
  rw [← consecutiveRegs_eq_filter inRange, messageRegs, List.flatMap_map, List.flatMap_map]

/-- R198: a THASH whose registers all exist writes the hash of their values. -/
theorem exec_thash_inRange (s : State) (tag : Tag) (rd : FReg) {ra : FReg} {cnt : Fin 16} (inRange : ra.val + cnt.val ≤ 16) :
    exec (.thash tag rd ra cnt) s =
      .next { s.writeF rd (hashWords tag (messageRegs s ra cnt)) with busy := false, done := true } := by
  have legal : hashInRange ra cnt = true := decide_eq_true inRange
  exact congrArg (finish s) (if_pos legal)

/-- Settles O53: the word is the sum of its fields; the command hashes the tag's ASCII bytes and its registers in order. -/
theorem taggedHashCompletes : Obligations.TaggedHashCompletes := by
  rintro s tag rd ra cnt _ _ inRange rfl rfl
  refine ⟨?word, ?effect⟩
  case word => cases tag <;> simp [encode_toNat, commandOf]
  case effect =>
    rw [exec_thash_inRange s tag rd inRange, hashWords, taggedHash, messageRegs_flatMap_bytes32 s inRange, ← tagBytes_eq]

end Sys2Proof.Scope
end

section
/-! SUPPORT. Key generation: the multiples of G that are public keys, `key_gen` on valid and on invalid secrets, and the
command KEYGEN (45_keygen.md R220, R221). -/

namespace Sys2Proof.Scope

open Sys2Proof.Machine Sys2Proof.Laws

/-! ### Multiples of G -/

/-- R160: `point_mul` answers on every point. -/
theorem pointMul_total {q : Point} (hq : q.valid = true) (k : U256) : ∃ z, pointMul q k = .ok z := by
  obtain ⟨z, -, product, -⟩ := scalarMultiplicationIsTheRepeatedSum q k hq
  exact ⟨z, product⟩

/-- R220, R11: a public key is never infinity, because no secret is a multiple of the order of G. -/
theorem pointMul_basePoint_aff {d : U256} (pos : 1 ≤ d.toNat) (lt : d.toNat < Config.groupOrder) :
    ∃ x y : U256, pointMul basePoint d = .ok (.aff x y) := by
  obtain ⟨z, product⟩ := pointMul_total basePoint_valid d
  cases z with
  | inf => exact absurd ((pointMul_basePoint_eq_inf_iff d).1 product) (Nat.not_dvd_of_pos_of_lt pos lt)
  | aff x y => exact ⟨x, y, product⟩

/-- R12, R11: scalars whose sum is a multiple of n give multiples of G that are each other's negative. -/
theorem pointMul_basePoint_negPoint {k k' : U256} {z : Point} (opposite : Config.groupOrder ∣ k'.toNat + k.toNat)
    (product : pointMul basePoint k = .ok z) : pointMul basePoint k' = .ok (negPoint z) := by
  classical
  have := fact_fieldPrime
  have valid := pointMul_valid basePoint_valid product
  obtain ⟨validNeg, neg⟩ := negPoint_toW valid
  rw [pointMul_eq_ok_iff basePoint_valid validNeg, neg, (pointMul_eq_ok_iff basePoint_valid valid k).1 product, eq_comm,
    eq_neg_iff_add_eq_zero, ← add_nsmul, ← addOrderOf_dvd_iff_nsmul_eq_zero, basePoint_order]
  exact opposite

/-! ### The function `key_gen` -/

/-- R220, R230 step 1: a secret in range passes the check. -/
theorem checkSecret_ok {d : U256} (pos : 1 ≤ d.toNat) (lt : d.toNat < Config.groupOrder) : checkSecret d = .ok () := by
  obtain ⟨-, -, passes⟩ | ⟨invalid, -⟩ := checkSecret_cases d
  · exact passes
  · omega

/-- R220, R230 step 1: a secret out of range does not. -/
theorem checkSecret_error {d : U256} (invalid : d.toNat = 0 ∨ Config.groupOrder ≤ d.toNat) :
    checkSecret d = .error .invalidSecretKey := by
  obtain ⟨pos, lt, -⟩ | ⟨-, fails⟩ := checkSecret_cases d
  · omega
  · exact fails

/-- R220: the public key of a secret in range is the x-coordinate of its multiple of G. -/
theorem keyGen_ok {d x y : U256} (pos : 1 ≤ d.toNat) (lt : d.toNat < Config.groupOrder)
    (product : pointMul basePoint d = .ok (.aff x y)) : keyGen d = .ok x := by
  rw [keyGen, checkSecret_ok pos lt, except_ok_bind, product, except_ok_bind, coordinates_aff, except_ok_bind, except_pure]

/-- R220: a secret out of range has no public key. -/
theorem keyGen_error {d : U256} (invalid : d.toNat = 0 ∨ Config.groupOrder ≤ d.toNat) :
    keyGen d = .error .invalidSecretKey := by
  rw [keyGen, checkSecret_error invalid, except_error_bind]

/-- Settles O55: the secrets d and n - d have opposite public points, and a point and its negative share their x. -/
theorem oppositeSecretsHaveTheSameKey : Obligations.OppositeSecretsHaveTheSameKey := by
  intro d pos lt
  obtain ⟨x, y, product⟩ := pointMul_basePoint_aff pos lt
  have value : (BitVec.ofNat 256 (Config.groupOrder - d.toNat)).toNat = Config.groupOrder - d.toNat :=
    toNat_ofNat_lt ((Nat.sub_le _ _).trans_lt groupOrder_lt_fieldPrime)
  have opposite := pointMul_basePoint_negPoint (by rw [value, Nat.sub_add_cancel lt.le]) product
  rw [keyGen_ok pos lt product]
  exact keyGen_ok (by omega) (by omega) opposite

/-! ### The command KEYGEN -/

section Command

variable (s : State) (rd ra : FReg)

/-- R221: KEYGEN writes the public key that `key_gen` answers. -/
theorem exec_keygen_ok {x : U256} (key : keyGen (s.readF ra) = .ok x) :
    exec (.keygen rd ra) s = .next { s.writeF rd x with busy := false, done := true } := by
  rw [exec, execKeygen, key, except_ok_bind, except_pure, finish_ok, State.complete_eq]

/-- R221, R262: where `key_gen` fails, KEYGEN writes nothing and records the cause. -/
theorem exec_keygen_error {e : CmdError} (key : keyGen (s.readF ra) = .error e) :
    exec (.keygen rd ra) s = .next { s with err := true, errcode := e.code, busy := false, done := true } := by
  rw [exec, execKeygen, key, except_error_bind, finish_error, State.takeError_eq]

end Command

/-- Settles O54: `key_gen` answers the x of `d·G`, which is affine, exactly for the secrets in range. -/
theorem keyGenerationCompletes : Obligations.KeyGenerationCompletes := by
  rintro s _ rd ra rfl
  refine ⟨by simp [encode_toNat, commandOf], fun pos lt => ?valid, fun invalid => ?invalid⟩
  case valid =>
    obtain ⟨x, y, product⟩ := pointMul_basePoint_aff pos lt
    exact ⟨x, y, product, exec_keygen_ok s rd ra (keyGen_ok pos lt product)⟩
  case invalid => exact exec_keygen_error s rd ra (keyGen_error invalid)

end Sys2Proof.Scope
end

section
/-! SUPPORT. Signing: the nonce and its normalisation, `sign` step by step, and the command SIGN (46_sign.md R230, R231,
R233). -/

namespace Sys2Proof.Scope

open Sys2Proof.Machine Sys2Proof.Laws

/-! ### The normalised nonce -/

/-- R230 step 5: `n - k0` for a nonce in range needs no reduction. -/
theorem normalNonce_eq {k0 : Nat} (y : U256) (pos : 1 ≤ k0) (lt : k0 < Config.groupOrder) :
    normalNonce k0 y = if isQuad y.toNat = true then k0 else Config.groupOrder - k0 := by
  rw [normalNonce, fsub_eq groupOrder_pos lt, if_neg (Nat.not_le.2 pos), Nat.zero_add]

/-- R230 step 5: the normalised nonce is below n. -/
theorem normalNonce_lt {k0 : Nat} (y : U256) (lt : k0 < Config.groupOrder) : normalNonce k0 y < Config.groupOrder := by
  rw [normalNonce]
  split
  · exact lt
  · exact fsub_lt 0 k0 groupOrder_pos

/-- A scalar up to n is stored whole. -/
theorem toNat_ofNat_scalar {k : Nat} (le : k ≤ Config.groupOrder) : (BitVec.ofNat 256 k).toNat = k :=
  toNat_ofNat_lt (le.trans_lt groupOrder_lt_fieldPrime)

/-- Settles O57: where y(k0·G) is no residue, `(n - k0)·G` is the negative of `k0·G`, and its y is one. -/
theorem normalisedNoncesCommitToResidues : Obligations.NormalisedNoncesCommitToResidues := by
  intro k0 x y pos lt product
  split
  · next residue => exact ⟨y, residue, product⟩
  · next nonresidue =>
    have valid := pointMul_valid basePoint_valid product
    have opposite : Config.groupOrder ∣ (BitVec.ofNat 256 (Config.groupOrder - k0)).toNat + (BitVec.ofNat 256 k0).toNat := by
      rw [toNat_ofNat_scalar (Nat.sub_le _ _), toNat_ofNat_scalar lt.le, Nat.sub_add_cancel lt.le]
    exact ⟨_, isQuad_opposite_y valid nonresidue, negPoint_aff valid ▸ pointMul_basePoint_negPoint opposite product⟩

/-- R233, R181: the point of the normalised multiple of G is the one that its x-coordinate decodes to. -/
theorem pointMul_normalNonce {k0 : Nat} {x y : U256} (pos : 1 ≤ k0) (lt : k0 < Config.groupOrder)
    (product : pointMul basePoint (BitVec.ofNat 256 k0) = .ok (.aff x y)) :
    ∃ z : U256, (Point.aff x z).valid = true ∧ isQuad z.toNat = true ∧
      pointMul basePoint (BitVec.ofNat 256 (normalNonce k0 y)) = .ok (.aff x z) := by
  obtain ⟨z, residue, multiple⟩ := normalisedNoncesCommitToResidues k0 x y pos lt product
  rw [← normalNonce_eq y pos lt] at multiple
  exact ⟨z, pointMul_valid basePoint_valid multiple, residue, multiple⟩

/-! ### The function `sign` -/

/-- R230 step 3: the message of the nonce hash is the secret and the message, 64 bytes. -/
theorem hashScalar_derive (d m : U256) : hashScalar .derive [d, m] =
    (intOfBytes (taggedHash Config.tagDerive (bytes32 d ++ bytes32 m))).toNat % Config.groupOrder := by
  simp only [hashScalar, hashWords, tagBytes, List.flatMap_cons, List.flatMap_nil, List.append_nil]

/-- R230 step 6: the message of the challenge hash is x(R), x(P) and the message, 96 bytes. -/
theorem hashScalar_challenge (r pk m : U256) : hashScalar .challenge [r, pk, m] =
    (intOfBytes (taggedHash Config.tagChallenge (bytes32 r ++ bytes32 pk ++ bytes32 m))).toNat % Config.groupOrder := by
  simp only [hashScalar, hashWords, tagBytes, List.flatMap_cons, List.flatMap_nil, List.append_nil, List.append_assoc]

/-- R230 step 7: the product is reduced before the sum and the sum again, which comes to one reduction. -/
theorem fadd_fmul (m a b c : Nat) : fadd m a (fmul m b c) = (a + b * c) % m := by
  rw [fadd, fmul, Nat.add_mod_mod]

section ValidSecret

variable {m d xP yP : U256} (pos : 1 ≤ d.toNat) (lt : d.toNat < Config.groupOrder)
  (key : pointMul basePoint d = .ok (.aff xP yP))

include pos lt key

/-- R230: with a nonce that is not 0, `sign` goes through all seven steps. -/
theorem sign_ok {xR yR : U256} (nonzero : hashScalar .derive [d, m] ≠ 0)
    (commit : pointMul basePoint (BitVec.ofNat 256 (hashScalar .derive [d, m])) = .ok (.aff xR yR)) :
    sign m d = .ok (xR, BitVec.ofNat 256 ((normalNonce (hashScalar .derive [d, m]) yR +
      hashScalar .challenge [xR, xP, m] * d.toNat) % Config.groupOrder)) := by
  have nonce : checkNonce (hashScalar .derive [d, m]) = .ok () := if_neg nonzero
  simp only [sign, checkSecret_ok pos lt, key, coordinates_aff, nonce, commit, except_ok_bind, except_pure, fadd_fmul]

/-- R230 step 3: a nonce of 0 is the error ZERO_NONCE. -/
theorem sign_zeroNonce (zero : hashScalar .derive [d, m] = 0) : sign m d = .error .zeroNonce := by
  have nonce : checkNonce (hashScalar .derive [d, m]) = .error .zeroNonce := if_pos zero
  simp only [sign, checkSecret_ok pos lt, key, coordinates_aff, nonce, except_ok_bind, except_error_bind]

end ValidSecret

/-- R230 step 1: an invalid secret is found first. -/
theorem sign_invalidSecretKey {d : U256} (m : U256) (invalid : d.toNat = 0 ∨ Config.groupOrder ≤ d.toNat) :
    sign m d = .error .invalidSecretKey := by
  rw [sign, checkSecret_error invalid, except_error_bind]

/-- R230 step 4, R11: a nonce that is not 0 commits to an affine point. -/
theorem commitment_aff {d m : U256} (nonzero : hashScalar .derive [d, m] ≠ 0) :
    ∃ x y : U256, pointMul basePoint (BitVec.ofNat 256 (hashScalar .derive [d, m])) = .ok (.aff x y) := by
  have lt := hashScalar_lt .derive [d, m]
  have value := toNat_ofNat_scalar lt.le
  exact pointMul_basePoint_aff (by rwa [value, Nat.one_le_iff_ne_zero]) (by rwa [value])

/-! ### The command SIGN -/

section Command

variable (s : State) {rd rc : FReg} (ra rb : FReg) (differ : rd ≠ rc)

include differ

/-- R231: with two destinations SIGN ends as `sign` does. -/
theorem exec_sign_eq : exec (.sign rd rc ra rb) s =
    finish s (sign (s.readF ra) (s.readF rb) >>= fun sig => .ok ((s.writeF rd sig.1).writeF rc sig.2)) := by
  have legal : destinationsDiffer rd rc = true := decide_eq_true differ
  exact congrArg (finish s) (if_pos legal)

/-- R231: SIGN writes both halves of the signature. -/
theorem exec_sign_ok {r sig : U256} (signed : sign (s.readF ra) (s.readF rb) = .ok (r, sig)) :
    exec (.sign rd rc ra rb) s = .next { (s.writeF rd r).writeF rc sig with busy := false, done := true } := by
  rw [exec_sign_eq s ra rb differ, signed, except_ok_bind, finish_ok, State.complete_eq]

/-- R231, R262: where `sign` fails, SIGN writes nothing and records the cause. -/
theorem exec_sign_error {e : CmdError} (fails : sign (s.readF ra) (s.readF rb) = .error e) :
    exec (.sign rd rc ra rb) s = .next { s with err := true, errcode := e.code, busy := false, done := true } := by
  rw [exec_sign_eq s ra rb differ, fails, except_error_bind, finish_error, State.takeError_eq]

end Command

/-- Settles O56: SIGN ends as `sign` does, which for a secret in range hangs on the nonce alone. -/
theorem signingCompletes : Obligations.SigningCompletes := by
  rintro s _ _ _ rd rc ra rb differ rfl rfl rfl
  refine ⟨by simp [encode_toNat, commandOf], fun pos lt => ?valid, fun invalid => ?invalid⟩
  case valid =>
    obtain ⟨xP, yP, key⟩ := pointMul_basePoint_aff pos lt
    rw [← hashScalar_derive]
    split
    · next zero => exact exec_sign_error s ra rb differ (sign_zeroNonce pos lt key zero)
    · next nonzero =>
      obtain ⟨xR, yR, commit⟩ := commitment_aff nonzero
      refine ⟨xP, yP, xR, yR, _, _, key, commit, ?_, hashScalar_challenge xR xP _,
        exec_sign_ok s ra rb differ (sign_ok pos lt key nonzero commit)⟩
      exact normalNonce_eq yR (Nat.one_le_iff_ne_zero.2 nonzero) (hashScalar_lt _ _)
  case invalid => exact exec_sign_error s ra rb differ (sign_invalidSecretKey _ invalid)

end Sys2Proof.Scope
end

section
/-! SUPPORT. Which signatures verify: the equation of `verify` as one of scalars modulo n, and KEYGEN, SIGN and VERIFY in a row
(46_sign.md R234, 47_verify.md R240). -/

namespace Sys2Proof.Scope

open Sys2Proof.Machine Sys2Proof.Laws

/-- The scalars modulo the group order. -/
abbrev Fn := ZMod Config.groupOrder

/-- R240 step 4: the point that `verify` builds from a point is a point. -/
theorem verifyPoint_valid {q z : Point} {s : U256} {e : Nat} (hq : q.valid = true) (h : verifyPoint q s e = .ok z) :
    z.valid = true := by
  obtain ⟨a, ha, h⟩ := bind_ok h
  obtain ⟨b, hb, sum⟩ := bind_ok h
  exact pointAdd_valid (pointMul_valid basePoint_valid ha) (pointMul_valid hq hb) sum

/-- R240 step 4, R12: for a public point `d·G`, the point `s·G + (n-e)·P` is `k·G` exactly if `s = k + e·d`
modulo n. -/
theorem verifyPoint_eq_ok_iff {d k : U256} {q z : Point} (key : pointMul basePoint d = .ok q)
    (commit : pointMul basePoint k = .ok z) (s : U256) {e : Nat} (he : e ≤ Config.groupOrder) :
    verifyPoint q s e = .ok z ↔ (s.toNat : Fn) = k.toNat + e * d.toNat := by
  classical
  have := fact_fieldPrime
  have hq := pointMul_valid basePoint_valid key
  have hz := pointMul_valid basePoint_valid commit
  obtain ⟨a, ha, ea, wa⟩ := pointMul_toW basePoint_valid s
  obtain ⟨b, hb, eb, wb⟩ := pointMul_toW hq (BitVec.ofNat 256 (Config.groupOrder - e))
  rw [verifyPoint, ea, except_ok_bind, eb, except_ok_bind, pointAdd_eq_ok_iff ha hb hz, wa, wb,
    (pointMul_eq_ok_iff basePoint_valid hq d).1 key, (pointMul_eq_ok_iff basePoint_valid hz k).1 commit, ← mul_nsmul,
    ← add_nsmul, nsmul_eq_nsmul_iff_modEq, basePoint_order, ← ZMod.natCast_eq_natCast_iff,
    toNat_ofNat_scalar (Nat.sub_le _ _)]
  push_cast [Nat.cast_sub he, ZMod.natCast_self]
  constructor
  · intro h
    linear_combination -h
  · intro h
    linear_combination -h

/-- R240: for a key that decodes, a signature in range and a commitment with a residue y, the tests of `verify` come to one
equation of points. -/
theorem verify_eq_true_iff {m pk r s y : U256} {q : Point} (decodes : liftX pk = .ok q)
    (valid : (Point.aff r y).valid = true) (residue : isQuad y.toNat = true) (low : s.toNat < Config.groupOrder) :
    verify m pk r s = true ↔ verifyPoint q s (hashScalar .challenge [r, pk, m]) = .ok (.aff r y) := by
  obtain ⟨-, -, hq, -⟩ := liftX_eq_ok_iff.1 decodes
  obtain ⟨lowR, -, -⟩ := valid_aff.1 valid
  have inRange : ¬(Config.fieldPrime ≤ r.toNat ∨ Config.groupOrder ≤ s.toNat) := by omega
  simp only [verify, decodes, if_neg inRange]
  constructor
  · intro accepted
    split at accepted
    · next x z built =>
      obtain ⟨residueZ, same⟩ := Bool.and_eq_true_iff.1 accepted
      obtain rfl : x = r := eq_of_beq same
      rw [built, residue_y_unique (verifyPoint_valid hq built) valid residueZ residue]
    · cases accepted
    · cases accepted
  · intro built
    simp [built, residue]

/-- R234: n is an odd prime, so e times a secret equals e times its opposite modulo n only for e = 0. -/
theorem mul_eq_mul_opposite_iff {d e : Nat} (pos : 1 ≤ d) (lt : d < Config.groupOrder) (he : e < Config.groupOrder) :
    (e : Fn) * d = e * (Config.groupOrder - d : Nat) ↔ e = 0 := by
  have := fact_groupOrder
  have cast_zero {a : Nat} (ha : a < Config.groupOrder) : (a : Fn) = 0 ↔ a = 0 :=
    (ZMod.natCast_eq_zero_iff a _).trans ⟨fun h => Nat.eq_zero_of_dvd_of_lt h ha, fun h => h ▸ dvd_zero _⟩
  have two0 : ((2 : Nat) : Fn) ≠ 0 := (cast_zero (by decide)).not.2 two_ne_zero
  have d0 : (d : Fn) ≠ 0 := (cast_zero lt).not.2 (Nat.one_le_iff_ne_zero.1 pos)
  rw [Nat.cast_sub lt.le, ZMod.natCast_self, zero_sub, ← cast_zero he]
  constructor
  · intro h
    have double : ((2 : Nat) * d : Fn) * e = 0 := by
      push_cast
      linear_combination h
    exact (mul_eq_zero.1 double).resolve_left (mul_ne_zero two0 d0)
  · intro h
    rw [h, zero_mul, zero_mul]

/-- R234: a signature of `sign` verifies under the key of its secret exactly if y(d·G) is a residue or the challenge is 0. -/
theorem verify_sign_iff {m d xP yP r sig : U256} (pos : 1 ≤ d.toNat) (lt : d.toNat < Config.groupOrder)
    (key : pointMul basePoint d = .ok (.aff xP yP)) (nonzero : hashScalar .derive [d, m] ≠ 0)
    (signed : sign m d = .ok (r, sig)) :
    verify m xP r sig = true ↔ isQuad yP.toNat = true ∨ hashScalar .challenge [r, xP, m] = 0 := by
  obtain ⟨xR, yR, commit⟩ := commitment_aff nonzero
  obtain ⟨rfl, rfl⟩ := Prod.mk.inj (Except.ok.inj ((sign_ok pos lt key nonzero commit).symm.trans signed))
  have low : ∀ v : Nat, v % Config.groupOrder < Config.groupOrder := fun v => Nat.mod_lt v groupOrder_pos
  have lowK := normalNonce_lt yR (hashScalar_lt .derive [d, m])
  have lowD := normalNonce_lt yP lt
  obtain ⟨yK, validK, residueK, commitK⟩ :=
    pointMul_normalNonce (Nat.one_le_iff_ne_zero.2 nonzero) (hashScalar_lt .derive [d, m]) commit
  have secret : BitVec.ofNat 256 d.toNat = d := by rw [BitVec.ofNat_toNat, BitVec.setWidth_eq]
  obtain ⟨yQ, validQ, residueQ, keyQ⟩ := pointMul_normalNonce pos lt (secret.symm ▸ key)
  have decodes : liftX xP = .ok (.aff xP yQ) := liftX_eq_ok_iff.2 ⟨yQ, rfl, validQ, residueQ⟩
  rw [verify_eq_true_iff decodes validK residueK (by rw [toNat_ofNat_scalar (low _).le]; exact low _),
    verifyPoint_eq_ok_iff keyQ commitK _ (hashScalar_lt _ _).le, toNat_ofNat_scalar (low _).le,
    toNat_ofNat_scalar lowK.le, toNat_ofNat_scalar lowD.le, ZMod.natCast_mod, Nat.cast_add, Nat.cast_mul, add_right_inj,
    normalNonce_eq yP pos lt]
  split
  · next residue => exact iff_of_true rfl (.inl residue)
  · next nonresidue => rw [mul_eq_mul_opposite_iff pos lt (hashScalar_lt _ _), or_iff_right nonresidue]

/-- R241: VERIFY sets T to the answer of `verify`. -/
theorem exec_verify (s : State) (ra rb rc rd : FReg) : exec (.verify ra rb rc rd) s =
    .next { s with t := verify (s.readF ra) (s.readF rb) (s.readF rc) (s.readF rd), busy := false, done := true } := rfl

/-- Settles O60: KEYGEN leaves the secret and the message, SIGN the message and the key, and VERIFY reads a signature of `sign`
and the key of its secret. -/
theorem signaturesVerifyExactlyForResidueKeysOrChallengeZero :
    Obligations.SignaturesVerifyExactlyForResidueKeysOrChallengeZero := by
  intro s xP yP noError pos lt nonzero key
  obtain ⟨xR, yR, commit⟩ := commitment_aff nonzero
  obtain ⟨sig, signed⟩ : ∃ sig, sign (s.readF 0) (s.readF 1) = .ok (xR, sig) := ⟨_, sign_ok pos lt key nonzero commit⟩
  obtain ⟨s1, keygen, err1, reads1⟩ : ∃ s1, exec (.keygen 4 1) s = .next s1 ∧ s1.err = s.err ∧
      s1.readF = (s.writeF 4 xP).readF := ⟨_, exec_keygen_ok s 4 1 (keyGen_ok pos lt key), rfl, rfl⟩
  have sources : sign (s1.readF 0) (s1.readF 1) = .ok (xR, sig) := by simpa [reads1, State.readF_writeF] using signed
  obtain ⟨s2, signs, err2, reads2⟩ : ∃ s2, exec (.sign 2 3 0 1) s1 = .next s2 ∧ s2.err = s1.err ∧
      s2.readF = ((s1.writeF 2 xR).writeF 3 sig).readF := ⟨_, exec_sign_ok s1 0 1 (by decide) sources, rfl, rfl⟩
  have message : s2.readF 0 = s.readF 0 := by simp [reads2, reads1, State.readF_writeF]
  have publicKey : s2.readF 4 = xP := by simp [reads2, reads1, State.readF_writeF]
  have half : s2.readF 2 = xR := by simp [reads2, State.readF_writeF]
  have otherHalf : s2.readF 3 = sig := by simp [reads2]
  have noError1 := err1.trans noError
  have noError2 := err2.trans noError1
  refine ⟨s1, s2, _, keygen, signs, exec_verify s2 0 4 2 3, noError1, noError2, noError2, ?_⟩
  rw [message, publicKey, half, otherHalf]
  exact verify_sign_iff pos lt key nonzero signed

end Sys2Proof.Scope
end

section
/-! SUPPORT. The tests of `verify`, on every operand, and the command VERIFY (47_verify.md R240, R241, R243). -/

namespace Sys2Proof.Scope

open Sys2Proof.Machine

/-- R240 step 4: the point that `verify` builds is the sum of the two multiples, and exists if both of them do. -/
theorem verifyPoint_eq_ok_iff_exists {q z : Point} {s : U256} {e : Nat} : verifyPoint q s e = .ok z ↔
    ∃ a c, pointMul basePoint s = .ok a ∧ pointMul q (BitVec.ofNat 256 (Config.groupOrder - e)) = .ok c ∧
      pointAdd a c = .ok z := by
  constructor
  · intro built
    obtain ⟨a, ha, rest⟩ := bind_ok built
    obtain ⟨c, hc, sum⟩ := bind_ok rest
    exact ⟨a, c, ha, hc, sum⟩
  · rintro ⟨a, c, ha, hc, sum⟩
    rw [verifyPoint, ha, except_ok_bind, hc, except_ok_bind, sum]

/-- R240: a key that does not decode fails the verification, whatever the other operands. -/
theorem verify_of_liftX_error {pk : U256} {e : CmdError} (undecodable : liftX pk = .error e) (m r s : U256) :
    verify m pk r s = false := by
  simp only [verify, undecodable]

/-- R240: a signature half out of range fails the verification, whatever the other operands. -/
theorem verify_of_out_of_range {r s : U256} (out : Config.fieldPrime ≤ r.toNat ∨ Config.groupOrder ≤ s.toNat)
    (m pk : U256) : verify m pk r s = false := by
  cases decoded : liftX pk with
  | error e => exact verify_of_liftX_error decoded m r s
  | ok q => simp only [verify, decoded, if_pos out]

/-- R240 step 4: a key that decodes and a signature in range leave the test of the point R: affine, with x(R) = r and a
residue y. -/
theorem verify_of_decoded_iff {m pk r s : U256} {q : Point} (decoded : liftX pk = .ok q)
    (inRange : ¬(Config.fieldPrime ≤ r.toNat ∨ Config.groupOrder ≤ s.toNat)) : verify m pk r s = true ↔
      ∃ y : U256, verifyPoint q s (hashScalar .challenge [r, pk, m]) = .ok (.aff r y) ∧ isQuad y.toNat = true := by
  simp only [verify, decoded, if_neg inRange]
  cases verifyPoint q s (hashScalar .challenge [r, pk, m]) with
  | error e => simp
  | ok z =>
    cases z with
    | inf => simp
    | aff x y =>
      simp only [Bool.and_eq_true, beq_iff_eq, Except.ok.injEq, Point.aff.injEq]
      constructor
      · rintro ⟨residue, same⟩
        exact ⟨y, ⟨same, rfl⟩, residue⟩
      · rintro ⟨_, ⟨same, rfl⟩, residue⟩
        exact ⟨residue, same⟩

/-- R240: `verify` answers true exactly if the signature is in range, the key decodes, and R passes its test. -/
theorem verify_iff {m pk r s : U256} : verify m pk r s = true ↔
    r.toNat < Config.fieldPrime ∧ s.toNat < Config.groupOrder ∧ ∃ q, liftX pk = .ok q ∧
      ∃ y : U256, verifyPoint q s (hashScalar .challenge [r, pk, m]) = .ok (.aff r y) ∧ isQuad y.toNat = true := by
  by_cases out : Config.fieldPrime ≤ r.toNat ∨ Config.groupOrder ≤ s.toNat
  · have fails := verify_of_out_of_range out m pk
    exact iff_of_false (by simp [fails]) (by omega)
  · have low : r.toNat < Config.fieldPrime ∧ s.toNat < Config.groupOrder := by omega
    cases decoded : liftX pk with
    | error e => simp [verify_of_liftX_error decoded]
    | ok q => simp [verify_of_decoded_iff decoded out, low]

/-- Settles O58: VERIFY sets T to the answer of `verify`, which is true exactly if every test passes. -/
theorem verificationCompletes : Obligations.VerificationCompletes := by
  rintro s _ _ _ _ _ ra rb rc rd rfl rfl rfl rfl rfl
  refine ⟨by simp [encode_toNat, commandOf], _, exec_verify s ra rb rc rd, ?_⟩
  rw [verify_iff, ← hashScalar_challenge]
  simp only [verifyPoint_eq_ok_iff_exists]
  constructor
  · rintro ⟨lowR, lowS, q, decoded, y, ⟨a, c, ha, hc, sum⟩, residue⟩
    exact ⟨lowR, lowS, q, a, c, y, decoded, ha, hc, sum, residue⟩
  · rintro ⟨lowR, lowS, q, a, c, y, decoded, ha, hc, sum, residue⟩
    exact ⟨lowR, lowS, q, decoded, y, ⟨a, c, ha, hc, sum⟩, residue⟩

/-- Settles O59: by `exec_verify` the runs end in states that differ in the F registers and the answer alone. -/
theorem verificationTellsOnlyItsAnswer : Obligations.VerificationTellsOnlyItsAnswer := by
  intro s t t' f' ra rb rc rd run run'
  rw [exec_verify] at run run'
  obtain rfl := Host.Outcome.next.inj run
  obtain rfl := Host.Outcome.next.inj run'
  exact ⟨rfl, rfl, rfl, rfl⟩

end Sys2Proof.Scope
end

section
/-! SUPPORT. What a command leaves unchanged (30_encoding.md R91, R95), the utility commands (48_utility.md R250 to R253) and
the codes of the errors (60_exceptions.md R261, R262). -/

namespace Sys2Proof.Scope

open Sys2Proof.Machine

/-! ### The frame of a command -/

/-- R95: in `u` nothing but destinations of the command `i` differs from `s`. -/
structure OnlyDestinations (i : Instr) (s u : State) : Prop where
  f : ∀ r, r ∉ writesF i → u.readF r = s.readF r
  p : ∀ k, k ∉ writesP i → u.readP k = s.readP k
  t : writesT i = false → u.t = s.t
  err : u.err = s.err
  errcode : u.errcode = s.errcode
  cmdreg : u.cmdreg = s.cmdreg
  agenda : u.agenda = s.agenda
  response : u.response = s.response
  freeReads : u.freeReads = s.freeReads

section Writes
variable {i : Instr} {s u : State}

theorem onlyDestinations_refl (i : Instr) (s : State) : OnlyDestinations i s s :=
  ⟨fun _ _ => rfl, fun _ _ => rfl, fun _ => rfl, rfl, rfl, rfl, rfl, rfl, rfl⟩

theorem onlyDestinations_writeF {rd : FReg} (h : OnlyDestinations i s u) (dest : rd ∈ writesF i) (v : U256) :
    OnlyDestinations i s (u.writeF rd v) :=
  { h with f := fun r hr => (u.readF_writeF_ne v (ne_of_mem_of_not_mem dest hr).symm).trans (h.f r hr) }

theorem onlyDestinations_writeP {rd : PReg} (h : OnlyDestinations i s u) (dest : rd ∈ writesP i) (q : Point) :
    OnlyDestinations i s (u.writeP rd q) :=
  { h with p := fun k hk => (u.readP_writeP_ne q (ne_of_mem_of_not_mem dest hk).symm).trans (h.p k hk) }

theorem onlyDestinations_setT (h : OnlyDestinations i s u) (dest : writesT i = true) (b : Bool) :
    OnlyDestinations i s (u.setT b) :=
  { h with t := fun no => absurd (dest.symm.trans no) Bool.noConfusion }

/-- The rule of the command `i` begun in `s`: where it answers its writes, they are to the command's destinations. -/
def WritesDestinations (i : Instr) (s : State) (r : Except CmdError State) : Prop := ∀ u, r = .ok u → OnlyDestinations i s u

theorem writesDestinations_ok (h : OnlyDestinations i s u) : WritesDestinations i s (.ok u) := fun _ e =>
  Except.ok.inj e ▸ h

theorem writesDestinations_error (e : CmdError) : WritesDestinations i s (.error e) := fun _ h => nomatch h

theorem writesDestinations_bind {α : Type} {x : Except CmdError α} {f : α → Except CmdError State}
    (h : ∀ a, WritesDestinations i s (f a)) : WritesDestinations i s (x >>= f) := fun u e => by
  obtain ⟨a, -, e'⟩ := bind_ok e
  exact h a u e'

theorem writesDestinations_ite {c : Prop} [Decidable c] {r r' : Except CmdError State} (h : WritesDestinations i s r)
    (h' : WritesDestinations i s r') : WritesDestinations i s (if c then r else r') := by
  split
  · exact h
  · exact h'

/-! ### The rules with one destination -/

theorem writesDestinations_writeF {rd : FReg} (dest : rd ∈ writesF i) (v : U256) :
    WritesDestinations i s (.ok (s.writeF rd v)) :=
  writesDestinations_ok (onlyDestinations_writeF (onlyDestinations_refl i s) dest v)

theorem writesDestinations_writeP {rd : PReg} (dest : rd ∈ writesP i) (q : Point) :
    WritesDestinations i s (.ok (s.writeP rd q)) :=
  writesDestinations_ok (onlyDestinations_writeP (onlyDestinations_refl i s) dest q)

theorem writesDestinations_setT (dest : writesT i = true) (b : Bool) : WritesDestinations i s (.ok (s.setT b)) :=
  writesDestinations_ok (onlyDestinations_setT (onlyDestinations_refl i s) dest b)

end Writes

/-- R95: every command is the end of a rule that writes the destinations its row names. -/
theorem exec_writesDestinations (i : Instr) (s : State) : ∃ r, exec i s = finish s r ∧ WritesDestinations i s r := by
  cases i with
  | nop => exact ⟨_, rfl, writesDestinations_ok (onlyDestinations_refl _ s)⟩
  | fmov | fsel | fred => exact ⟨_, rfl, writesDestinations_writeF (.head _) _⟩
  | feq | pisinf | verify => exact ⟨_, rfl, writesDestinations_setT rfl _⟩
  | fexp | pgetx | pgety | keygen =>
    exact ⟨_, rfl, writesDestinations_bind fun _ => writesDestinations_writeF (.head _) _⟩
  | fadd | fsub | fmul | finv | fsqrt =>
    exact ⟨_, rfl, writesDestinations_bind fun _ => writesDestinations_bind fun _ => writesDestinations_writeF (.head _) _⟩
  | fisq => exact ⟨_, rfl, writesDestinations_bind fun _ => writesDestinations_setT rfl _⟩
  | pinf | pldg | pmov => exact ⟨_, rfl, writesDestinations_writeP (.head _) _⟩
  | plift | padd | pdbl | pmul =>
    exact ⟨_, rfl, writesDestinations_bind fun _ => writesDestinations_writeP (.head _) _⟩
  | pset =>
    exact ⟨_, rfl, writesDestinations_bind fun _ => writesDestinations_bind fun _ =>
      writesDestinations_ite (writesDestinations_writeP (.head _) _) (writesDestinations_error _)⟩
  | thash => exact ⟨_, rfl, writesDestinations_ite (writesDestinations_writeF (.head _) _) (writesDestinations_error _)⟩
  | sign rd rc ra rb =>
    refine ⟨_, rfl, writesDestinations_ite (writesDestinations_bind fun sig => ?_) (writesDestinations_error _)⟩
    have first := onlyDestinations_writeF (onlyDestinations_refl (.sign rd rc ra rb) s) (.head _) sig.1
    exact writesDestinations_ok (onlyDestinations_writeF first (.tail _ (.head _)) sig.2)

/-- R91, R262: a command takes an error, or completes having written its destinations alone. -/
theorem exec_cases {i : Instr} {s t : State} (h : exec i s = .next t) :
    (∃ e, t = s.takeError e) ∨ (∃ u, OnlyDestinations i s u ∧ t = u.complete) := by
  obtain ⟨r, e, writes⟩ := exec_writesDestinations i s
  obtain ⟨cause, -, rfl⟩ | ⟨u, ok, rfl⟩ := finish_cases (e.symm.trans h)
  · exact .inl ⟨cause, rfl⟩
  · exact .inr ⟨u, writes u ok, rfl⟩

/-- Settles O10: the two ends of `exec_cases`. -/
theorem commandsCompleteOrFailPrecisely : Obligations.CommandsCompleteOrFailPrecisely := by
  intro i s
  obtain ⟨t, run⟩ := exec_next i s
  refine ⟨t, run, ?_⟩
  obtain ⟨e, rfl⟩ | ⟨u, frame, rfl⟩ := exec_cases run
  · exact .inl ⟨e, State.takeError_eq s e⟩
  · exact .inr ⟨rfl, rfl, frame.err, frame.errcode, frame.cmdreg, frame.agenda, frame.response, frame.freeReads, frame.f,
      frame.p, frame.t⟩

/-! ### The codes of the errors -/

/-- Settles O11: the table of codes, and the error entry of `exec_endsWithin` with ERR = 0 before. -/
theorem errorCodesAreTheListedOnes : Obligations.ErrorCodesAreTheListedOnes := by
  refine ⟨⟨rfl, rfl, rfl, rfl, rfl, rfl, rfl, rfl, rfl⟩, fun i s t wf ok run failed => ?_⟩
  obtain ⟨e, listed, rfl⟩ | keeps := exec_endsWithin wf run
  · exact ⟨e, listed, State.takeError_errcode s e⟩
  · exact absurd (failed.symm.trans (keeps.trans ok)) Bool.noConfusion

/-! ### The utility commands -/

/-- R253: FEQ compares all 256 bits, so the values as integers. -/
theorem flagEqual_eq_decide (a b : U256) : flagEqual a b = decide (a.toNat = b.toNat) := by
  simp only [flagEqual, BitVec.toNat_inj]
  rfl

/-- Settles O30: the words are sums of their fields, and each rule is its one write. -/
theorem utilityCommandsComplete : Obligations.UtilityCommandsComplete := by
  refine fun s rd ra rb => ⟨⟨rfl, rfl⟩, ⟨?_, rfl⟩, ⟨?_, rfl⟩, ?_, ?equal⟩
  case equal =>
    rw [← flagEqual_eq_decide]
    rfl
  all_goals simp [encode_toNat, commandOf]

end Sys2Proof.Scope
end

section
/-! SUPPORT. The status machine (60_exceptions.md R262 to R270, 10_state.md R36): the edges along which one step can move the
status bits and CMDREG, and what a standing error allows (R264). -/

namespace Sys2Proof.Scope

open Sys2Proof.Machine

/-! ### The edges of the status machine -/

/-- The status bits and the command word they speak of (R35, R36). -/
structure Status where
  busy : Bool
  done : Bool
  err : Bool
  errcode : Byte
  cmdreg : U32

/-- The status of a block. -/
def statusOf (s : State) : Status := ⟨s.busy, s.done, s.err, s.errcode, s.cmdreg⟩

/-- What one step can do to the status (R270): nothing, a reset, CLRERR, the acceptance of a command word, and the two ends of a
command in flight. -/
inductive StatusEdge : Status → Status → Prop where
  | stays (q : Status) : StatusEdge q q
  | resets (q : Status) : StatusEdge q (statusOf State.reset)
  | clears (q : Status) : StatusEdge q { q with err := false, errcode := 0#8 }
  | accepts {q : Status} (w : U32) (idle : q.busy = false) (ok : q.err = false) :
    StatusEdge q { q with cmdreg := w, busy := true, done := false }
  | fails {q : Status} (e : CmdError) (inFlight : q.busy = true) :
    StatusEdge q { q with err := true, errcode := e.code, busy := false, done := true }
  | completes {q : Status} (inFlight : q.busy = true) : StatusEdge q { q with busy := false, done := true }

/-! ### Each step follows an edge -/

/-- R64, R65: an accepted write finds an idle block, and none of cases 4, 6 and 7. -/
theorem idle_of_write_accepted {s : State} {off : BitVec 12} {width : Nat} {v : U32} {loc : Loc}
    (accepted : accessRefused s (.write off width v) = false) (mapped : locate off = some loc) :
    s.busy = false ∧ writeRefused s loc v = false := by
  simp only [accessRefused, accessOffset, mapped, Bool.or_eq_false_iff] at accepted
  exact accepted.2

/-- R65 case 6: a write to CMD is refused exactly while an error stands. -/
theorem writeRefused_cmd (s : State) (v : U32) : writeRefused s .cmd v = s.err := by
  simp [writeRefused, readOnly]

/-- R63: the writes that touch the status are those to CMD and CTRL. -/
theorem writeLoc_edge {s : State} {loc : Loc} {v : U32} (idle : s.busy = false) (accepted : writeRefused s loc v = false) :
    StatusEdge (statusOf s) (statusOf (writeLoc s loc v)) := by
  cases loc with
  | cmd => exact .accepts v idle ((writeRefused_cmd s v).symm.trans accepted)
  | ctrl =>
    obtain ⟨-, e⟩ | ⟨-, -, e⟩ | ⟨-, -, e⟩ := writeCtrl_cases s v <;> rw [writeLoc, e]
    · exact .resets _
    · exact .clears _
    · exact .stays _
  | status | fWord _ _ | pX _ _ | pY _ _ | pInfo _ => exact .stays _

/-- R72: a refused access and a read leave the status as it is. -/
theorem hostStep_edge (s : State) (a : Access) : StatusEdge (statusOf s) (statusOf (hostStep s a)) := by
  obtain ⟨-, e⟩ | ⟨accepted, loc, mapped, e⟩ := hostStep_cases s a
  · obtain ⟨r, n, e'⟩ := answerError_eq s a
    rw [e, e']
    exact .stays _
  · rw [e]
    cases a with
    | read off width => exact .stays _
    | write off width v =>
      obtain ⟨idle, notRefused⟩ := idle_of_write_accepted accepted mapped
      exact writeLoc_edge idle notRefused

theorem OnlyDestinations.statusOf_complete {i : Instr} {s u : State} (h : OnlyDestinations i s u) :
    statusOf u.complete = { statusOf s with busy := false, done := true } := by
  simp [statusOf, h.err, h.errcode, h.cmdreg]

/-- R78, R91: the engine's turn ends a command in flight, one way or the other, and does nothing in an idle block. -/
theorem engineTurn_edge {s t : State} (h : engineTurn s = .next t) : StatusEdge (statusOf s) (statusOf t) := by
  cases busy : s.busy with
  | false =>
    obtain rfl := Host.Outcome.next.inj ((engineTurn_idle busy).symm.trans h)
    exact .stays _
  | true =>
    rw [engineTurn_busy busy] at h
    cases word : decode s.cmdreg with
    | error illegal =>
      obtain rfl := Host.Outcome.next.inj ((completion_error word).symm.trans h)
      exact .fails .illegalCmd busy
    | ok i =>
      obtain ⟨e, rfl⟩ | ⟨u, frame, rfl⟩ := exec_cases ((completion_ok word).symm.trans h)
      · exact .fails e busy
      · exact frame.statusOf_complete ▸ .completes busy

/-- R270: every step moves the status along an edge. -/
theorem step_edge {s t : State} (h : step s = .next t) : StatusEdge (statusOf s) (statusOf t) := by
  cases agenda : s.agenda with
  | nil => exact engineTurn_edge ((step_nil agenda).symm.trans h)
  | cons e rest =>
    cases e with
    | access a =>
      obtain rfl := Host.Outcome.next.inj ((step_access agenda).symm.trans h)
      exact hostStep_edge { s with agenda := rest } a
    | engine => exact engineTurn_edge (s := { s with agenda := rest }) ((step_engine agenda).symm.trans h)
    | resetInput =>
      obtain rfl := Host.Outcome.next.inj ((step_reset agenda).symm.trans h)
      exact .resets _

/-! ### The four combinations -/

/-- R270: without an error BUSY and DONE exclude each other; an error stands in a block that is done. -/
def Status.Allowed (q : Status) : Prop :=
  (q.err = false ∧ q.errcode = 0#8 ∧ (q.busy = true → q.done = false)) ∨
  (q.err = true ∧ q.busy = false ∧ q.done = true ∧ 1 ≤ q.errcode.toNat ∧ q.errcode.toNat ≤ 9)

/-- R270: the truth table of BUSY, DONE and ERR. -/
theorem statusOk_iff (s : State) : statusOk s = true ↔ (statusOf s).Allowed := by
  unfold statusOk Status.Allowed statusOf
  cases s.busy <;> cases s.done <;> cases s.err <;> simp

/-- R261: the codes are the numbers 1 to 9. -/
theorem code_bounds (e : CmdError) : 1 ≤ e.code.toNat ∧ e.code.toNat ≤ 9 := by
  cases e <;> decide

/-- R270: no edge leaves the four combinations. -/
theorem StatusEdge.allowed {q r : Status} (edge : StatusEdge q r) (h : q.Allowed) : r.Allowed := by
  cases edge with
  | stays => exact h
  | resets => exact .inl ⟨rfl, rfl, fun _ => rfl⟩
  | clears =>
    obtain ⟨-, -, exclude⟩ | ⟨-, idle, -⟩ := h
    · exact .inl ⟨rfl, rfl, exclude⟩
    · exact .inl ⟨rfl, rfl, fun busy => absurd (idle.symm.trans busy) Bool.noConfusion⟩
  | accepts w idle ok =>
    obtain ⟨-, code, -⟩ | ⟨failed, -⟩ := h
    · exact .inl ⟨ok, code, fun _ => rfl⟩
    · exact absurd (ok.symm.trans failed) Bool.noConfusion
  | fails e => exact .inr ⟨rfl, rfl, rfl, code_bounds e⟩
  | completes inFlight =>
    obtain ⟨ok, code, -⟩ | ⟨-, idle, -⟩ := h
    · exact .inl ⟨ok, code, nofun⟩
    · exact absurd (idle.symm.trans inFlight) Bool.noConfusion

/-- Settles O28: a step follows an edge. -/
theorem stepsKeepTheStatusMachine : Obligations.StepsKeepTheStatusMachine := fun s t hs h =>
  (statusOk_iff t).2 ((step_edge h).allowed ((statusOk_iff s).1 hs))

/-! ### A standing error -/

/-- R264: from an idle block with an error, the edges that leave ERR = 1 leave the rest as it was. -/
theorem StatusEdge.error_stands {q r : Status} (edge : StatusEdge q r) (failed : q.err = true) (idle : q.busy = false)
    (stands : r.err = true) : r.errcode = q.errcode ∧ r.busy = false ∧ r.cmdreg = q.cmdreg := by
  cases edge with
  | stays => exact ⟨rfl, idle, rfl⟩
  | resets | clears => exact absurd stands Bool.noConfusion
  | accepts w _ ok => exact absurd (ok.symm.trans failed) Bool.noConfusion
  | fails e inFlight | completes inFlight => exact absurd (idle.symm.trans inFlight) Bool.noConfusion

/-- R65 case 6: a command word written while an error stands is answered ERROR. -/
theorem hostStep_cmd_refused {s : State} (failed : s.err = true) (w : U32) :
    hostStep s (.write 0x000#12 4 w) = { s with response := some .writeError } := by
  have refused : accessRefused s (.write (offsetOf .cmd) 4 w) = true := by
    rw [accessRefused_write, writeRefused_cmd, failed, Bool.or_true]
  exact hostStep_refused refused

/-- Settles O25: CMD is refused; reads, F words and CTRL answer as in any idle block; a step follows an edge. -/
theorem noCommandIsAcceptedWhileAnErrorStands : Obligations.NoCommandIsAcceptedWhileAnErrorStands := by
  intro s failed idle
  obtain ⟨ctrl, -⟩ := controlWriteEffects
  obtain ⟨-, zero, -⟩ := ctrl s 0#32 idle
  obtain ⟨-, -, clrerr, -⟩ := ctrl s 1#32 idle
  refine ⟨hostStep_cmd_refused failed, hostStep_read_idle idle, fun i j v => fieldWordWritesReplaceOneWord s i j v idle,
    zero rfl, clrerr rfl, fun v => ?srst, fun v => ?reserved, fun t h stands => ?step⟩
  case srst =>
    obtain ⟨-, -, -, srst, -⟩ := ctrl s v idle
    exact srst
  case reserved =>
    obtain ⟨reserved, -⟩ := ctrl s v idle
    exact reserved
  case step => exact (step_edge h).error_stands failed idle stands

/-! ### No step stops -/

/-- R260, R277: the engine's turn gives a next state, in an idle block and with a command in flight. -/
theorem engineTurn_next (s : State) : ∃ t, engineTurn s = .next t := by
  cases busy : s.busy with
  | false => exact ⟨s, engineTurn_idle busy⟩
  | true =>
    obtain ⟨t, turn, -⟩ := engineTurn_ends busy
    exact ⟨t, turn⟩

/-- Settles O15: an access and the reset input have an effect in every state, and so has the engine's turn. -/
theorem theMachineNeverStops : Obligations.TheMachineNeverStops := by
  intro s
  cases agenda : s.agenda with
  | nil => exact (step_nil agenda).symm ▸ engineTurn_next s
  | cons e rest =>
    cases e with
    | access a => exact ⟨_, step_access agenda⟩
    | engine => exact (step_engine agenda).symm ▸ engineTurn_next { s with agenda := rest }
    | resetInput => exact ⟨_, step_reset agenda⟩

end Sys2Proof.Scope
end
